-- ==== Sys2Proof/Word.lean ====
section
/-! DEFINITION. The widths of the core's data: bytes, port words, chaining words and ALU words (spec/00_scope.md R5, R6). Values are unsigned; nothing here is signed. -/

namespace Sys2Proof

/-- One byte: a block byte, a digest byte, a lane of a port word. -/
abbrev Byte := BitVec 8

/-- One port word, one command word, one word of a 32-bit engine. -/
abbrev Word32 := BitVec 32

/-- One chaining register, one schedule entry, one word of the SHA-512 engine. -/
abbrev Word64 := BitVec 64

/-- One ALU register, and the length counter. -/
abbrev Word128 := BitVec 128

/-- The word offset one port access carries: window offset bits [11:2] (20_memory.md R61). -/
abbrev WordOffset := BitVec 10

end Sys2Proof
end

