-- ==== Sys2Proof/Config.lean ====
section
/-! DEFINITION. What the spec leaves to the platform: the OPEN parameters CORE_BASE and N_CORES (00_scope.md R5, 92_eei_decisions.md "Open parameters"). No rule of the core depends on them, and the core's step does not read them: they are the arguments of Machine/Platform.lean. The core has no undefined result, so there is no free value here. -/

namespace Sys2Proof

/-- The OPEN parameters as an argument of the model: the base address of each instance's 4 KiB window
in the host's address space (CORE_BASE, 20_memory.md R60; 60_exceptions.md R353). A platform has at least
one instance (N_CORES ≥ 1, 00_scope.md R5), so the first stands by itself. -/
structure PlatformConfig where
  /-- CORE_BASE of instance 0. -/
  firstBase : Nat
  /-- CORE_BASE of instance 1, 2, ... -/
  otherBases : List Nat
  deriving DecidableEq, Repr

/-- CORE_BASE of instance 0, 1, ... -/
def PlatformConfig.bases (c : PlatformConfig) : List Nat := c.firstBase :: c.otherBases

/-- N_CORES: how many instances the platform has (60_exceptions.md R353), at least 1 (00_scope.md R5). -/
def PlatformConfig.nCores (c : PlatformConfig) : Nat := c.bases.length

end Sys2Proof
end

