-- ==== Sys2Proof/Syntax.lean ====
section
/-! DEFINITION. The vocabulary of the core: modes, engines, widths, error causes, the 22 commands of
spec/opcode_table.json, the named registers of the window and the accesses of the host port. -/

namespace Sys2Proof

/-- The ten modes (30_encoding.md R97). -/
inductive Mode where
  | md4 | md5 | sha0 | sha1 | sha224 | sha256 | sha384 | sha512 | sha512_224 | sha512_256
  deriving DecidableEq, Repr

/-- The six compression engines (00_scope.md R2, R5; 30_encoding.md R97). -/
inductive Engine where
  | md4 | md5 | sha0 | sha1 | sha256 | sha512
  deriving DecidableEq, Repr

/-- The five word-ALU widths (30_encoding.md R96). -/
inductive Width where
  | w8 | w16 | w32 | w64 | w128
  deriving DecidableEq, Repr

/-- Why a command is refused (60_exceptions.md R340), codes 1 to 9 in order. -/
inductive CmdError where
  | illegalOpcode | reservedField | badMode | badWidth | badCount | noMode | bitMode | bitPending
  | badOutbits
  deriving DecidableEq, Repr

/-- The phases of the digest-state machine (10_state.md R24). `blockReady` exists only inside an
absorb and is never seen at a command boundary. -/
inductive Phase where
  | unconf | empty | accum | blockReady | finalized
  deriving DecidableEq, Repr

/-- The core's commands, one constructor per row of spec/opcode_table.json (30_encoding.md R93).
Mode and width codes are decoded to names; a count is the plain 4-bit field F2 (R92), range-checked by
`Instr.wellFormed`. -/
inductive Instr where
  /-- INIT `m`, 40_control.md R121. -/
  | init (m : Mode)
  /-- INITK `m`, 40_control.md R123. -/
  | initk (m : Mode)
  /-- CLRERR, 40_control.md R124. -/
  | clrerr
  /-- ABSORB `n`, 41_streaming.md R151. -/
  | absorb (n : BitVec 4)
  /-- ABSORBBITS `n`, 41_streaming.md R153. -/
  | absorbbits (n : BitVec 4)
  /-- FINAL, 41_streaming.md R154. -/
  | final
  /-- COMPRESS, 42_block_engine.md R192. -/
  | compress
  /-- EXPAND, 42_block_engine.md R193. -/
  | expand
  /-- WADD.w, 45_word_alu.md R291. -/
  | wadd (w : Width)
  /-- CADD.w, 45_word_alu.md R292. -/
  | cadd (w : Width)
  /-- WSUB.w, 45_word_alu.md R293. -/
  | wsub (w : Width)
  /-- BSUB.w, 45_word_alu.md R294. -/
  | bsub (w : Width)
  /-- CMUL.w, 45_word_alu.md R295. -/
  | cmul (w : Width)
  /-- ROTL.w, 45_word_alu.md R296. -/
  | rotl (w : Width)
  /-- ROTR.w, 45_word_alu.md R297. -/
  | rotr (w : Width)
  /-- SHL.w, 45_word_alu.md R298. -/
  | shl (w : Width)
  /-- SHR.w, 45_word_alu.md R299. -/
  | shr (w : Width)
  /-- BSWAP.w, 45_word_alu.md R300. -/
  | bswap (w : Width)
  /-- AND.w, 45_word_alu.md R301. -/
  | and (w : Width)
  /-- OR.w, 45_word_alu.md R302. -/
  | or (w : Width)
  /-- XOR.w, 45_word_alu.md R303. -/
  | xor (w : Width)
  /-- NOT.w, 45_word_alu.md R304. -/
  | not (w : Width)
  deriving DecidableEq, Repr

/-- The named registers of the window, one port word each (20_memory.md R62). `k` is the word of a
wide register, least significant first (R64). -/
inductive PortReg where
  | id | cmd | status | outbits | din | bufbits
  | totlen (k : Fin 4)
  | a (k : Fin 4)
  | b (k : Fin 4)
  | c (k : Fin 4)
  | r (k : Fin 4)
  | rh (k : Fin 4)
  | h (i : Fin 8) (k : Fin 2)
  | blk (j : Fin 32)
  | dg (j : Fin 16)
  | w (t : Fin 80) (k : Fin 2)
  deriving DecidableEq, Repr

/-- The identification value (10_state.md R21): ASCII "SH", edition 7. -/
def idValue : Word32 := 0x53480007

/-- The ID register: 32 bits that hold one value only (10_state.md R21: no field of it is writable;
70_reset_and_hazards.md R370: reset does not affect it). -/
abbrev IdReg := { v : Word32 // v = idValue }

/-- What reaches the core from outside: one 32-bit host access at a word offset (20_memory.md R61; no
other access shape exists), or the platform's reset signal, taken between accesses
(70_reset_and_hazards.md R371). -/
inductive PortEvent where
  | read (off : WordOffset)
  | write (off : WordOffset) (v : Word32)
  | reset
  deriving DecidableEq, Repr

end Sys2Proof
end

