-- ==== Sys2Proof/WellFormed.lean ====
section
/-! DEFINITION. Which instructions the encoding can express (30_encoding.md R98): mode and width codes
are already names, so the only fields with a range are the two counts. -/

namespace Sys2Proof

/-- The count ranges of R98: ABSORB 0 to 4, ABSORBBITS 0 to 7. Every other command is well-formed. -/
def Instr.wellFormed : Instr → Bool
  | .absorb n => decide (n.toNat ≤ 4)
  | .absorbbits n => decide (n.toNat ≤ 7)
  | .init _ | .initk _ | .clrerr | .final | .compress | .expand => true
  | .wadd _ | .cadd _ | .wsub _ | .bsub _ | .cmul _ | .rotl _ | .rotr _ | .shl _ | .shr _ => true
  | .bswap _ | .and _ | .or _ | .xor _ | .not _ => true

end Sys2Proof
end

