-- ==== Sys2Proof/Decode.lean ====
section
/-! DEFINITION. Decoding a command word, total on all 2^32 words, in the order of checks of
30_encoding.md R99, and the encoder written from the same tables (R91, R93, R96, R97). -/

namespace Sys2Proof

/-- Mode codes (30_encoding.md R97); 10 to 15 are reserved. -/
def Mode.ofCode (f1 : BitVec 4) : Option Mode :=
  match f1.toNat with
  | 0 => some .md4
  | 1 => some .md5
  | 2 => some .sha0
  | 3 => some .sha1
  | 4 => some .sha224
  | 5 => some .sha256
  | 6 => some .sha384
  | 7 => some .sha512
  | 8 => some .sha512_224
  | 9 => some .sha512_256
  | _ => none

/-- The code of a mode (30_encoding.md R97), also what STATUS.MODE reads (10_state.md R26). -/
def Mode.code : Mode → BitVec 4
  | .md4 => 0
  | .md5 => 1
  | .sha0 => 2
  | .sha1 => 3
  | .sha224 => 4
  | .sha256 => 5
  | .sha384 => 6
  | .sha512 => 7
  | .sha512_224 => 8
  | .sha512_256 => 9

/-- Width codes (30_encoding.md R96); 5 to 15 are reserved. -/
def Width.ofCode (f1 : BitVec 4) : Option Width :=
  match f1.toNat with
  | 0 => some .w8
  | 1 => some .w16
  | 2 => some .w32
  | 3 => some .w64
  | 4 => some .w128
  | _ => none

/-- The code of a width (30_encoding.md R96). -/
def Width.code : Width → BitVec 4
  | .w8 => 0
  | .w16 => 1
  | .w32 => 2
  | .w64 => 3
  | .w128 => 4

/-- What an opcode does with F1 and F2 (the F1 and F2 columns of 30_encoding.md R93). -/
inductive CommandForm where
  /-- F1 is a mode code, F2 must be 0. -/
  | mode (mk : Mode → Instr)
  /-- F1 and F2 must be 0. -/
  | plain (i : Instr)
  /-- F1 must be 0, F2 is a count of at most `max`. -/
  | count (max : Nat) (mk : BitVec 4 → Instr)
  /-- F1 is a width code, F2 must be 0. -/
  | width (mk : Width → Instr)

/-- The opcode map (30_encoding.md R93); every other opcode is reserved (R94). -/
def opcodeForm (opc : BitVec 8) : Option CommandForm :=
  match opc.toNat with
  | 0x01 => some (.mode .init)
  | 0x02 => some (.mode .initk)
  | 0x0F => some (.plain .clrerr)
  | 0x10 => some (.count 4 .absorb)
  | 0x11 => some (.count 7 .absorbbits)
  | 0x12 => some (.plain .final)
  | 0x20 => some (.plain .compress)
  | 0x21 => some (.plain .expand)
  | 0x30 => some (.width .wadd)
  | 0x31 => some (.width .cadd)
  | 0x32 => some (.width .wsub)
  | 0x33 => some (.width .bsub)
  | 0x34 => some (.width .cmul)
  | 0x35 => some (.width .rotl)
  | 0x36 => some (.width .rotr)
  | 0x37 => some (.width .shl)
  | 0x38 => some (.width .shr)
  | 0x39 => some (.width .bswap)
  | 0x3A => some (.width .and)
  | 0x3B => some (.width .or)
  | 0x3C => some (.width .xor)
  | 0x3D => some (.width .not)
  | _ => none

/-- The field checks of 30_encoding.md R99 for one opcode: must-be-zero fields first (code 2), then the
value field (codes 3, 4, 5). -/
def CommandForm.read (form : CommandForm) (f1 f2 : BitVec 4) : Except CmdError Instr :=
  match form with
  | .mode mk =>
    if f2 ≠ 0 then .error .reservedField
    else match Mode.ofCode f1 with
      | none => .error .badMode
      | some m => .ok (mk m)
  | .plain i => if f1 ≠ 0 ∨ f2 ≠ 0 then .error .reservedField else .ok i
  | .count max mk =>
    if f1 ≠ 0 then .error .reservedField
    else if max < f2.toNat then .error .badCount
    else .ok (mk f2)
  | .width mk =>
    if f2 ≠ 0 then .error .reservedField
    else match Width.ofCode f1 with
      | none => .error .badWidth
      | some w => .ok (mk w)

/-- OPC = v[7:0] (30_encoding.md R91). -/
def fieldOpc (v : Word32) : BitVec 8 := v.extractLsb' 0 8
/-- F1 = v[11:8] (30_encoding.md R91). -/
def fieldF1 (v : Word32) : BitVec 4 := v.extractLsb' 8 4
/-- F2 = v[15:12] (30_encoding.md R91). -/
def fieldF2 (v : Word32) : BitVec 4 := v.extractLsb' 12 4
/-- RSV = v[31:16] (30_encoding.md R91). -/
def fieldRsv (v : Word32) : BitVec 16 := v.extractLsb' 16 16

/-- `decode` of 30_encoding.md R99: opcode (code 1), RSV (code 2), then the opcode's own fields. -/
def decode (v : Word32) : Except CmdError Instr :=
  match opcodeForm (fieldOpc v) with
  | none => .error .illegalOpcode
  | some form =>
    if fieldRsv v ≠ 0 then .error .reservedField
    else form.read (fieldF1 v) (fieldF2 v)

/-- A command word from its fields, RSV = 0 (30_encoding.md R91, R102). -/
def commandWord (opc : BitVec 8) (f1 f2 : BitVec 4) : Word32 := 0#16 ++ f2 ++ f1 ++ opc

/-- The word of a command (30_encoding.md R93, R96, R97, R102). -/
def encode : Instr → Word32
  | .init m => commandWord 0x01 m.code 0
  | .initk m => commandWord 0x02 m.code 0
  | .clrerr => commandWord 0x0F 0 0
  | .absorb n => commandWord 0x10 0 n
  | .absorbbits n => commandWord 0x11 0 n
  | .final => commandWord 0x12 0 0
  | .compress => commandWord 0x20 0 0
  | .expand => commandWord 0x21 0 0
  | .wadd w => commandWord 0x30 w.code 0
  | .cadd w => commandWord 0x31 w.code 0
  | .wsub w => commandWord 0x32 w.code 0
  | .bsub w => commandWord 0x33 w.code 0
  | .cmul w => commandWord 0x34 w.code 0
  | .rotl w => commandWord 0x35 w.code 0
  | .rotr w => commandWord 0x36 w.code 0
  | .shl w => commandWord 0x37 w.code 0
  | .shr w => commandWord 0x38 w.code 0
  | .bswap w => commandWord 0x39 w.code 0
  | .and w => commandWord 0x3A w.code 0
  | .or w => commandWord 0x3B w.code 0
  | .xor w => commandWord 0x3C w.code 0
  | .not w => commandWord 0x3D w.code 0

/-- The instruction this decoder reads from the command word `w` (bit 0 the least significant). A
command is always 32 bits (30_encoding.md R100), so `nbits` only says how many of them a table row
gives; a number that is no 32-bit word is no command. -/
def decodeTableWord (_nbits w : Nat) : Option Instr :=
  if w < 2 ^ 32 then (decode (BitVec.ofNat 32 w)).toOption else none

end Sys2Proof
end

