-- ==== Sys2Proof/Machine/State.lean ====
section
/-! DEFINITION. The state of one core instance, `CoreState`: exactly the items of 10_state.md R20; and the
machine's `State`: the core together with what the host has issued to it and read from it (log entry 1).
Plain data throughout. -/

namespace Sys2Proof.Machine

/-- Why the machine would stop. No constructor: the spec has no event that stops the core. A command it
does not accept is refused by a defined step that changes the error record only (60_exceptions.md R341,
R342, R348), and every access completes (R355). So nobody raises a fault; safe, since nothing that could
run is stopped (log entry 6). -/
inductive Fault where
  deriving DecidableEq, Repr

/-- Why a command would have no meaning. -/
inductive Refusal where
  /-- An instruction whose arm in Machine/Dispatch.lean has no meaning yet. No arm is left in that
  state, so nobody raises it; it would be safe (the model stops where the core goes on). -/
  | notModelled (mnemonic : String)
  deriving DecidableEq, Repr

/-- The architectural state of one core instance: a field for each item of 10_state.md R20 and no others.
STATUS is its seven fields, as R20 lists it. -/
structure CoreState where
  /-- ID (R21). -/
  id : IdReg
  /-- STATUS.PHASE (R24). -/
  phase : Phase
  /-- STATUS.ERR (R25). -/
  err : Bool
  /-- STATUS.ERRCODE (R25); `none` is code 0, no error recorded. -/
  errcode : Option CmdError
  /-- STATUS.MODE (R26). -/
  mode : Mode
  /-- STATUS.BITPEND (R27). -/
  bitpend : Bool
  /-- STATUS.CUSTOM (R28). -/
  custom : Bool
  /-- STATUS.CF (R29). -/
  cf : Bool
  /-- OUTBITS (R30). -/
  outbits : BitVec 10
  /-- DIN (R31). -/
  din : Word32
  /-- TOTLEN (R32). -/
  totlen : Word128
  /-- H[0..7] (R34). -/
  h : Vector Word64 8
  /-- BLK[0..127] (R35). -/
  blk : Vector Byte 128
  /-- DG[0..63] (R36). -/
  dg : Vector Byte 64
  /-- W[0..79] (R38). -/
  w : Vector Word64 80
  /-- A (R39). -/
  a : Word128
  /-- B (R39). -/
  b : Word128
  /-- C (R39). -/
  c : Word128
  /-- R (R40). -/
  r : Word128
  /-- RH (R40). -/
  rh : Word128
  deriving DecidableEq, Repr

/-- The machine the step runs: one core, and the host's side of its port, which is the model's own and no
state of the core (log entry 1). -/
structure State extends CoreState where
  /-- The model's own: port events issued and not yet performed, oldest first (20_memory.md R74). -/
  pending : List PortEvent
  /-- The model's own: what the reads performed so far returned, oldest first (20_memory.md R67). -/
  responses : List Word32
  deriving DecidableEq, Repr

/-- The reset state (70_reset_and_hazards.md R370): every register 0, PHASE = UNCONF, MODE = 0 (md4).
The host has issued nothing and read nothing (log entry 1). -/
def State.reset : State where
  id := ⟨idValue, rfl⟩
  phase := .unconf
  err := false
  errcode := none
  mode := .md4
  bitpend := false
  custom := false
  cf := false
  outbits := 0
  din := 0
  totlen := 0
  h := Vector.replicate 8 0
  blk := Vector.replicate 128 0
  dg := Vector.replicate 64 0
  w := Vector.replicate 80 0
  a := 0
  b := 0
  c := 0
  r := 0
  rh := 0
  pending := []
  responses := []

/-- What a meaning answers. -/
abbrev Result := Host.Outcome State Fault Refusal

end Sys2Proof.Machine
end

