-- ==== Sys2Proof/Machine/Operands.lean ====
section
/-! DEFINITION. Every operand form: what a mode selects (30_encoding.md R97, 00_scope.md R5), ALU widths
and operands (45_word_alu.md R290), byte orders (00_scope.md R8, 20_memory.md R78), the words of wide
registers and the byte lanes of the port (20_memory.md R63 to R66). -/

namespace Sys2Proof

/-- The engine of a mode (30_encoding.md R97). -/
def Mode.engine : Mode → Engine
  | .md4 => .md4
  | .md5 => .md5
  | .sha0 => .sha0
  | .sha1 => .sha1
  | .sha224 | .sha256 => .sha256
  | .sha384 | .sha512 | .sha512_224 | .sha512_256 => .sha512

/-- The output length INIT writes to OUTBITS (30_encoding.md R97). -/
def Mode.defaultOutbits : Mode → BitVec 10
  | .md4 | .md5 => 128
  | .sha0 | .sha1 => 160
  | .sha224 | .sha512_224 => 224
  | .sha256 | .sha512_256 => 256
  | .sha384 => 384
  | .sha512 => 512

/-- Block size in bytes, BB/8 (00_scope.md R5). -/
def Engine.blockBytes : Engine → Nat
  | .sha512 => 128
  | .md4 | .md5 | .sha0 | .sha1 | .sha256 => 64

/-- BB, the block size in bits (00_scope.md R5). -/
def Engine.blockBits (e : Engine) : Nat := 8 * e.blockBytes

/-- Length-field width in bytes, LF/8 (00_scope.md R5). -/
def Engine.lenBytes : Engine → Nat
  | .sha512 => 16
  | .md4 | .md5 | .sha0 | .sha1 | .sha256 => 8

/-- LF, the length-field width in bits (00_scope.md R5). -/
def Engine.lenBits (e : Engine) : Nat := 8 * e.lenBytes

/-- K, the number of state words (00_scope.md R5). -/
def Engine.stateWords : Engine → Nat
  | .md4 | .md5 => 4
  | .sha0 | .sha1 => 5
  | .sha256 | .sha512 => 8

/-- Bytes of one engine word, ww/8 (00_scope.md R5). -/
def Engine.wordBytes : Engine → Nat
  | .sha512 => 8
  | .md4 | .md5 | .sha0 | .sha1 | .sha256 => 4

/-- SB, the state size in bits and the largest legal OUTBITS (30_encoding.md R97). -/
def Engine.stateBits (e : Engine) : Nat := 8 * e.wordBytes * e.stateWords

/-- NS, the steps of one block (00_scope.md R5). -/
def Engine.steps : Engine → Nat
  | .md4 => 48
  | .md5 | .sha256 => 64
  | .sha0 | .sha1 | .sha512 => 80

/-- Whether the engine's words and length field are little-endian (20_memory.md R78). -/
def Engine.littleEndian : Engine → Bool
  | .md4 | .md5 => true
  | .sha0 | .sha1 | .sha256 | .sha512 => false

/-- `w` in bits (30_encoding.md R96). -/
def Width.bits : Width → Nat
  | .w8 => 8
  | .w16 => 16
  | .w32 => 32
  | .w64 => 64
  | .w128 => 128

/-- `le(bytes)`: byte 0 least significant (00_scope.md R8). -/
def leVal : List Byte → Nat
  | [] => 0
  | x :: xs => x.toNat + 256 * leVal xs

/-- `be(bytes)`: byte 0 most significant (00_scope.md R8). -/
def beVal (bytes : List Byte) : Nat := leVal bytes.reverse

/-- `ser_le_n(v)` (00_scope.md R8). -/
def serLe : Nat → Nat → List Byte
  | 0, _ => []
  | n + 1, v => BitVec.ofNat 8 v :: serLe n (v / 256)

/-- `ser_be_n(v)` (00_scope.md R8). -/
def serBe (n v : Nat) : List Byte := (serLe n v).reverse

/-- An engine word from its bytes, in the engine's order (20_memory.md R78). -/
def Engine.wordVal (e : Engine) (bytes : List Byte) : Nat :=
  if e.littleEndian then leVal bytes else beVal bytes

/-- A number in `n` bytes, in the engine's order (20_memory.md R78). -/
def Engine.serialize (e : Engine) (n v : Nat) : List Byte :=
  if e.littleEndian then serLe n v else serBe n v

/-- The high `n` bits of a byte kept, the rest cleared: `(0xFF << (8 - n)) mod 256` as a mask
(41_streaming.md R153, R155, R161). -/
def highBitsMask (n : Nat) : Byte := BitVec.ofNat 8 (0xFF <<< (8 - n))

/-- Word `k` of a wide register: bits [32k+31:32k] (20_memory.md R64). -/
def wordOf {n : Nat} (x : BitVec n) (k : Nat) : Word32 := x.extractLsb' (32 * k) 32

/-- A wide register with its word `k` replaced and every other bit kept (20_memory.md R64). -/
def withWord {n : Nat} (x : BitVec n) (k : Nat) (v : Word32) : BitVec n :=
  (x &&& ~~~(BitVec.setWidth n (BitVec.allOnes 32) <<< (32 * k))) ||| (v.setWidth n <<< (32 * k))

/-- The four bytes of a port word, byte `k` in bits [8k+7:8k] (20_memory.md R63). -/
def laneByte (v : Word32) (k : Nat) : Byte := v.extractLsb' (8 * k) 8

/-- Port word `j` of a byte array: `{X[4j+3], X[4j+2], X[4j+1], X[4j]}` (20_memory.md R65, R66). -/
def lanes {n : Nat} (x : Vector Byte (4 * n)) (j : Fin n) : Word32 :=
  x[4 * j.val + 3]'(by omega) ++ x[4 * j.val + 2]'(by omega) ++ x[4 * j.val + 1]'(by omega)
    ++ x[4 * j.val]'(by omega)

/-- A byte array with its port word `j` written, lane by lane (20_memory.md R65). -/
def withLanes {n : Nat} (x : Vector Byte (4 * n)) (j : Fin n) (v : Word32) : Vector Byte (4 * n) :=
  (((x.set (4 * j.val) (laneByte v 0) (by omega)).set (4 * j.val + 1) (laneByte v 1) (by omega)).set
    (4 * j.val + 2) (laneByte v 2) (by omega)).set (4 * j.val + 3) (laneByte v 3) (by omega)

namespace Machine

/-- `engine(MODE)` (10_state.md R26). -/
def State.engine (s : State) : Engine := s.mode.engine

/-- BUFBITS = TOTLEN mod BB, derived and not stored (10_state.md R33). -/
def State.bufbits (s : State) : Nat := s.totlen.toNat % s.engine.blockBits

/-- The engine's block, BLK[0 .. BB/8 - 1] (10_state.md R35). -/
def State.block (s : State) : List Byte := s.blk.toList.take s.engine.blockBytes

/-- ALU operand a = A[w-1:0] (45_word_alu.md R290). -/
def State.opA (s : State) (w : Width) : Nat := s.a.toNat % 2 ^ w.bits

/-- ALU operand b = B[w-1:0] (45_word_alu.md R290). -/
def State.opB (s : State) (w : Width) : Nat := s.b.toNat % 2 ^ w.bits

/-- ALU operand c = C[w-1:0] (45_word_alu.md R290). -/
def State.opC (s : State) (w : Width) : Nat := s.c.toNat % 2 ^ w.bits

/-- The carry or borrow in, c0 = C[0] (45_word_alu.md R290). -/
def State.carryIn (s : State) : Nat := s.c.toNat % 2

/-- The rotate and shift amount n = b mod w (45_word_alu.md R296). -/
def State.amount (s : State) (w : Width) : Nat := s.opB w % w.bits

end Machine

end Sys2Proof
end

