-- ==== Sys2Proof/Machine/Flags.lean ====
section
/-! DEFINITION. Every flag computation: the ALU's CF (45_word_alu.md R291 to R294) and the STATUS word
the fields make (10_state.md R23). -/

namespace Sys2Proof

/-- CF of WADD and CADD: the exact sum's carry out of bit w-1, `s div 2^w` (45_word_alu.md R291, R292). -/
def carryOut (w : Width) (sum : Nat) : Bool := decide (sum / 2 ^ w.bits ≠ 0)

/-- CF of WSUB and BSUB: the borrow, `x < y` with y the amount taken away (45_word_alu.md R293, R294). -/
def borrowOut (x y : Nat) : Bool := decide (x < y)

/-- What STATUS.PHASE reads (10_state.md R24). -/
def Phase.code : Phase → BitVec 3
  | .unconf => 0
  | .empty => 1
  | .accum => 2
  | .blockReady => 3
  | .finalized => 4

/-- The code of an error (60_exceptions.md R340). -/
def CmdError.code : CmdError → BitVec 4
  | .illegalOpcode => 1
  | .reservedField => 2
  | .badMode => 3
  | .badWidth => 4
  | .badCount => 5
  | .noMode => 6
  | .bitMode => 7
  | .bitPending => 8
  | .badOutbits => 9

/-- What STATUS.ERRCODE reads (10_state.md R25): 0 while no error is recorded. -/
def errcodeBits : Option CmdError → BitVec 4
  | none => 0
  | some c => c.code

namespace Machine

/-- The STATUS word (10_state.md R23), most significant field first: reserved [31:17], CF [16],
reserved [15:14], CUSTOM [13], BITPEND [12], MODE [11:8], ERRCODE [7:4], ERR [3], PHASE [2:0]. -/
def State.statusWord (s : State) : Word32 :=
  0#15 ++ BitVec.ofBool s.cf ++ 0#2 ++ BitVec.ofBool s.custom ++ BitVec.ofBool s.bitpend ++ s.mode.code
    ++ errcodeBits s.errcode ++ BitVec.ofBool s.err ++ s.phase.code

end Machine

end Sys2Proof
end

