-- ==== Sys2Proof/Machine/Ops.lean ====
section
/-! DEFINITION. The named operations over the registers: refusing a command and clearing the error
record (60_exceptions.md R341, R342; 40_control.md R124), the register map of the window
(20_memory.md R62) with its reads and writes (R63 to R71), ALU results (45_word_alu.md R290) and the
start of a message. -/

namespace Sys2Proof

/-- The register at a word offset; `none` is a reserved offset (20_memory.md R62, R69). -/
def portReg (off : WordOffset) : Option PortReg :=
  let o := 4 * off.toNat
  if o < 0x018 then
    match o with
    | 0x000 => some .id
    | 0x004 => some .cmd
    | 0x008 => some .status
    | 0x00C => some .outbits
    | 0x010 => some .din
    | _ => some .bufbits
  else if o < 0x020 then none
  else if o < 0x030 then some (.totlen (Fin.ofNat 4 ((o - 0x020) / 4)))
  else if o < 0x040 then none
  else if o < 0x050 then some (.a (Fin.ofNat 4 ((o - 0x040) / 4)))
  else if o < 0x060 then some (.b (Fin.ofNat 4 ((o - 0x050) / 4)))
  else if o < 0x070 then some (.c (Fin.ofNat 4 ((o - 0x060) / 4)))
  else if o < 0x080 then some (.r (Fin.ofNat 4 ((o - 0x070) / 4)))
  else if o < 0x090 then some (.rh (Fin.ofNat 4 ((o - 0x080) / 4)))
  else if o < 0x100 then none
  else if o < 0x140 then some (.h (Fin.ofNat 8 ((o - 0x100) / 8)) (Fin.ofNat 2 ((o - 0x100) / 4)))
  else if o < 0x200 then none
  else if o < 0x280 then some (.blk (Fin.ofNat 32 ((o - 0x200) / 4)))
  else if o < 0x300 then none
  else if o < 0x340 then some (.dg (Fin.ofNat 16 ((o - 0x300) / 4)))
  else if o < 0x400 then none
  else if o < 0x680 then some (.w (Fin.ofNat 80 ((o - 0x400) / 8)) (Fin.ofNat 2 ((o - 0x400) / 4)))
  else none

/-- The byte offset of a register in the window (20_memory.md R62). -/
def PortReg.byteOffset : PortReg → Nat
  | .id => 0x000
  | .cmd => 0x004
  | .status => 0x008
  | .outbits => 0x00C
  | .din => 0x010
  | .bufbits => 0x014
  | .totlen k => 0x020 + 4 * k.val
  | .a k => 0x040 + 4 * k.val
  | .b k => 0x050 + 4 * k.val
  | .c k => 0x060 + 4 * k.val
  | .r k => 0x070 + 4 * k.val
  | .rh k => 0x080 + 4 * k.val
  | .h i k => 0x100 + 8 * i.val + 4 * k.val
  | .blk j => 0x200 + 4 * j.val
  | .dg j => 0x300 + 4 * j.val
  | .w t k => 0x400 + 8 * t.val + 4 * k.val

/-- The word offset the port carries for a register: byte offset bits [11:2] (20_memory.md R61). -/
def PortReg.offset (r : PortReg) : WordOffset := BitVec.ofNat 10 (r.byteOffset / 4)

namespace Machine

/-- The error record of a refused command: ERRCODE keeps the first code, ERR is sticky
(60_exceptions.md R342). This is the core's only exception; it saves nothing else and changes no
control flow (R345). -/
def State.recordError (s : State) (c : CmdError) : State :=
  { s with err := true, errcode := if s.err then s.errcode else some c }

/-- `raise CmdError(c)`: the command ends, with no effect but the error record (00_scope.md R9,
60_exceptions.md R341). -/
def State.refuse (s : State) (c : CmdError) : Result := .next (s.recordError c)

/-- The error record cleared, the core's only recovery (40_control.md R124, 60_exceptions.md R346). -/
def State.clearError (s : State) : State := { s with err := false, errcode := none }

/-- What INIT and INITK share: mode `m`, an empty message, BLK zero, PHASE = EMPTY
(40_control.md R121, R123). -/
def State.startMessage (s : State) (m : Mode) (custom : Bool) : State :=
  { s with
    mode := m
    totlen := 0
    bitpend := false
    custom := custom
    blk := Vector.replicate 128 0
    phase := .empty }

/-- `R <- zext_128(v)` (45_word_alu.md R290). -/
def State.withR (s : State) (v : Nat) : State := { s with r := BitVec.ofNat 128 v }

/-- `RH <- zext_128(v)` (45_word_alu.md R295). -/
def State.withRH (s : State) (v : Nat) : State := { s with rh := BitVec.ofNat 128 v }

/-- CF written (45_word_alu.md R291 to R294). -/
def State.withCF (s : State) (f : Bool) : State := { s with cf := f }

/-- PHASE written (41_streaming.md R162). -/
def State.withPhase (s : State) (p : Phase) : State := { s with phase := p }

/-- The current value of a register (20_memory.md R62 to R71). CMD reads 0 (R67). -/
def State.readReg (s : State) : PortReg → Word32
  | .id => s.id.val
  | .cmd => 0
  | .status => s.statusWord
  | .outbits => s.outbits.setWidth 32
  | .din => s.din
  | .bufbits => BitVec.ofNat 32 s.bufbits
  | .totlen k => wordOf s.totlen k.val
  | .a k => wordOf s.a k.val
  | .b k => wordOf s.b k.val
  | .c k => wordOf s.c k.val
  | .r k => wordOf s.r k.val
  | .rh k => wordOf s.rh k.val
  | .h i k => wordOf s.h[i] k.val
  | .blk j => lanes (n := 32) s.blk j
  | .dg j => lanes (n := 16) s.dg j
  | .w t k => wordOf s.w[t] k.val

/-- `BusRead` at a word offset: a reserved offset reads 0; no read has a side effect
(20_memory.md R67, R69). -/
def State.busRead (s : State) (off : WordOffset) : Word32 :=
  match portReg off with
  | none => 0
  | some reg => s.readReg reg

/-- A value stored into a register other than CMD: read-write registers take it, writes to read-only
registers are ignored (20_memory.md R65, R68, R70, R71). CMD holds no state (10_state.md R22). -/
def State.writeReg (s : State) (reg : PortReg) (v : Word32) : State :=
  match reg with
  | .outbits => { s with outbits := v.setWidth 10 }
  | .din => { s with din := v }
  | .a k => { s with a := withWord s.a k.val v }
  | .b k => { s with b := withWord s.b k.val v }
  | .c k => { s with c := withWord s.c k.val v }
  | .h i k => { s with h := s.h.set i.val (withWord s.h[i] k.val v) i.isLt }
  | .blk j => { s with blk := withLanes (n := 32) s.blk j v }
  | .id | .cmd | .status | .bufbits | .totlen _ | .r _ | .rh _ | .dg _ | .w _ _ => s

/-- The platform's reset: every register of the core at its reset value; what the host has issued and
what it has read are the host's and stay (70_reset_and_hazards.md R370, R371; log entry 9). -/
def State.afterReset (s : State) : State :=
  { State.reset with pending := s.pending, responses := s.responses }

end Machine

end Sys2Proof
end

