-- ==== Sys2Proof/Machine/Alu.lean ====
section
/-! DEFINITION. The word-ALU commands (45_word_alu.md R290 to R304): operands as exact numbers, the
result narrowed once at the end. They raise no state error and are legal in every phase (R290). -/

namespace Sys2Proof

/-- `rotl_w(x, n)` for n < w (00_scope.md R7, 45_word_alu.md R296). -/
def rotlNat (w x n : Nat) : Nat := if n = 0 then x else ((x <<< n) ||| (x >>> (w - n))) % 2 ^ w

/-- `rotr_w(x, n)` for n < w (00_scope.md R7, 45_word_alu.md R297). -/
def rotrNat (w x n : Nat) : Nat := if n = 0 then x else ((x >>> n) ||| (x <<< (w - n))) % 2 ^ w

/-- The w/8 bytes of `x` in reverse order (45_word_alu.md R300). -/
def bswapNat (w x : Nat) : Nat := beVal (serLe (w / 8) x)

namespace Machine

/-- WADD.w (45_word_alu.md R291). -/
def execWadd (w : Width) (s : State) : Host.Outcome State Fault Refusal :=
  let sum := s.opA w + s.opB w
  .next ((s.withR (sum % 2 ^ w.bits)).withCF (carryOut w sum))

/-- CADD.w (45_word_alu.md R292): the carry in is C[0], not CF. -/
def execCadd (w : Width) (s : State) : Host.Outcome State Fault Refusal :=
  let sum := s.opA w + s.opB w + s.carryIn
  .next ((s.withR (sum % 2 ^ w.bits)).withCF (carryOut w sum))

/-- WSUB.w (45_word_alu.md R293). -/
def execWsub (w : Width) (s : State) : Host.Outcome State Fault Refusal :=
  let diff := (s.opA w : Int) - s.opB w
  .next ((s.withR (diff % 2 ^ w.bits).toNat).withCF (borrowOut (s.opA w) (s.opB w)))

/-- BSUB.w (45_word_alu.md R294): the borrow in is C[0]. -/
def execBsub (w : Width) (s : State) : Host.Outcome State Fault Refusal :=
  let diff := (s.opA w : Int) - s.opB w - s.carryIn
  .next ((s.withR (diff % 2 ^ w.bits).toNat).withCF (borrowOut (s.opA w) (s.opB w + s.carryIn)))

/-- CMUL.w (45_word_alu.md R295): the only command that writes RH. -/
def execCmul (w : Width) (s : State) : Host.Outcome State Fault Refusal :=
  let p := s.opA w * s.opB w + s.opC w
  .next ((s.withR (p % 2 ^ w.bits)).withRH (p / 2 ^ w.bits))

/-- ROTL.w (45_word_alu.md R296). -/
def execRotl (w : Width) (s : State) : Host.Outcome State Fault Refusal :=
  .next (s.withR (rotlNat w.bits (s.opA w) (s.amount w)))

/-- ROTR.w (45_word_alu.md R297). -/
def execRotr (w : Width) (s : State) : Host.Outcome State Fault Refusal :=
  .next (s.withR (rotrNat w.bits (s.opA w) (s.amount w)))

/-- SHL.w (45_word_alu.md R298): the amount is taken mod w, so a shift by w is the identity. -/
def execShl (w : Width) (s : State) : Host.Outcome State Fault Refusal :=
  .next (s.withR ((s.opA w <<< s.amount w) % 2 ^ w.bits))

/-- SHR.w (45_word_alu.md R299). -/
def execShr (w : Width) (s : State) : Host.Outcome State Fault Refusal :=
  .next (s.withR (s.opA w >>> s.amount w))

/-- BSWAP.w (45_word_alu.md R300). -/
def execBswap (w : Width) (s : State) : Host.Outcome State Fault Refusal :=
  .next (s.withR (bswapNat w.bits (s.opA w)))

/-- AND.w (45_word_alu.md R301). -/
def execAnd (w : Width) (s : State) : Host.Outcome State Fault Refusal :=
  .next (s.withR (s.opA w &&& s.opB w))

/-- OR.w (45_word_alu.md R302). -/
def execOr (w : Width) (s : State) : Host.Outcome State Fault Refusal :=
  .next (s.withR (s.opA w ||| s.opB w))

/-- XOR.w (45_word_alu.md R303). -/
def execXor (w : Width) (s : State) : Host.Outcome State Fault Refusal :=
  .next (s.withR (s.opA w ^^^ s.opB w))

/-- NOT.w (45_word_alu.md R304): `~_w x = (2^w - 1) - x` (00_scope.md R7). -/
def execNot (w : Width) (s : State) : Host.Outcome State Fault Refusal :=
  .next (s.withR (2 ^ w.bits - 1 - s.opA w))

end Machine

end Sys2Proof
end

