-- ==== Sys2Proof/Machine/Tables.lean ====
section
/-! DEFINITION. The constant tables inside the core (10_state.md R42): initial values, round constants,
message-index and shift tables, as the rules list them. -/

namespace Sys2Proof

/-- IV-MD, modes MD4 and MD5 (40_control.md R122). The 32-bit words, zero-extended as INIT loads them. -/
def ivMd : List Word64 :=
  [0x67452301, 0xefcdab89, 0x98badcfe, 0x10325476]

/-- IV-SHA1, modes SHA-0 and SHA-1 (40_control.md R122). The 32-bit words, zero-extended as INIT loads them. -/
def ivSha1 : List Word64 :=
  [0x67452301, 0xefcdab89, 0x98badcfe, 0x10325476,
      0xc3d2e1f0]

/-- IV-224 (40_control.md R122). The 32-bit words, zero-extended as INIT loads them. -/
def iv224 : List Word64 :=
  [0xc1059ed8, 0x367cd507, 0x3070dd17, 0xf70e5939,
      0xffc00b31, 0x68581511, 0x64f98fa7, 0xbefa4fa4]

/-- IV-256 (40_control.md R122). The 32-bit words, zero-extended as INIT loads them. -/
def iv256 : List Word64 :=
  [0x6a09e667, 0xbb67ae85, 0x3c6ef372, 0xa54ff53a,
      0x510e527f, 0x9b05688c, 0x1f83d9ab, 0x5be0cd19]

/-- IV-384 (40_control.md R122). -/
def iv384 : List Word64 :=
  [0xcbbb9d5dc1059ed8, 0x629a292a367cd507,
      0x9159015a3070dd17, 0x152fecd8f70e5939,
      0x67332667ffc00b31, 0x8eb44a8768581511,
      0xdb0c2e0d64f98fa7, 0x47b5481dbefa4fa4]

/-- IV-512 (40_control.md R122). -/
def iv512 : List Word64 :=
  [0x6a09e667f3bcc908, 0xbb67ae8584caa73b,
      0x3c6ef372fe94f82b, 0xa54ff53a5f1d36f1,
      0x510e527fade682d1, 0x9b05688c2b3e6c1f,
      0x1f83d9abfb41bd6b, 0x5be0cd19137e2179]

/-- IV-512/224 (40_control.md R122). -/
def iv512_224 : List Word64 :=
  [0x8c3d37c819544da2, 0x73e1996689dcd4d6,
      0x1dfab7ae32ff9c82, 0x679dd514582f9fcf,
      0x0f6d2b697bd44da8, 0x77e36f7304c48942,
      0x3f9d85a86a1d36c8, 0x1112e6ad91d692a1]

/-- IV-512/256 (40_control.md R122). -/
def iv512_256 : List Word64 :=
  [0x22312194fc2bf72c, 0x9f555fa3c84c64c2,
      0x2393b86b6f53b151, 0x963877195940eabd,
      0x96283ee2a88effe3, 0xbe5e1e2553863992,
      0x2b0199fc2c85b8aa, 0x0eb72ddc81c52ca2]

/-- `IV_m`, the standard IV of a mode, K words (40_control.md R122, 30_encoding.md R97). -/
def Mode.iv : Mode → List Word64
  | .md4 | .md5 => ivMd
  | .sha0 | .sha1 => ivSha1
  | .sha224 => iv224
  | .sha256 => iv256
  | .sha384 => iv384
  | .sha512 => iv512
  | .sha512_224 => iv512_224
  | .sha512_256 => iv512_256

/-- C4[j], the MD4 round constants (43_md_engines.md R213). -/
def md4Const : Nat → Word32
  | 0 => 0x00000000
  | 1 => 0x5a827999
  | _ => 0x6ed9eba1

/-- k4(16j + p), one row a round j (43_md_engines.md R214). -/
def md4IndexTable : List Nat :=
  [0, 1, 2, 3, 4, 5, 6, 7, 8, 9, 10, 11, 12, 13, 14, 15]
  ++ [0, 4, 8, 12, 1, 5, 9, 13, 2, 6, 10, 14, 3, 7, 11, 15]
  ++ [0, 8, 4, 12, 2, 10, 6, 14, 1, 9, 5, 13, 3, 11, 7, 15]

/-- s4(16j + p) by p mod 4, one row a round j (43_md_engines.md R214). -/
def md4ShiftTable : List Nat :=
  [3, 7, 11, 19]
  ++ [3, 5, 9, 13]
  ++ [3, 9, 11, 15]

/-- k4(i), the message word MD4 step i reads (43_md_engines.md R214). -/
def md4Index (i : Nat) : Nat := md4IndexTable.getD i 0

/-- s4(i), the shift of MD4 step i (43_md_engines.md R214). -/
def md4Shift (i : Nat) : Nat := md4ShiftTable.getD (4 * (i / 16) + i % 4) 0

/-- k5(16j + p), one row a round j (43_md_engines.md R219). -/
def md5IndexTable : List Nat :=
  [0, 1, 2, 3, 4, 5, 6, 7, 8, 9, 10, 11, 12, 13, 14, 15]
  ++ [1, 6, 11, 0, 5, 10, 15, 4, 9, 14, 3, 8, 13, 2, 7, 12]
  ++ [5, 8, 11, 14, 1, 4, 7, 10, 13, 0, 3, 6, 9, 12, 15, 2]
  ++ [0, 7, 14, 5, 12, 3, 10, 1, 8, 15, 6, 13, 4, 11, 2, 9]

/-- s5(16j + p) by p mod 4, one row a round j (43_md_engines.md R219). -/
def md5ShiftTable : List Nat :=
  [7, 12, 17, 22]
  ++ [5, 9, 14, 20]
  ++ [4, 11, 16, 23]
  ++ [6, 10, 15, 21]

/-- k5(i), the message word MD5 step i reads (43_md_engines.md R219). -/
def md5Index (i : Nat) : Nat := md5IndexTable.getD i 0

/-- s5(i), the shift of MD5 step i (43_md_engines.md R219). -/
def md5Shift (i : Nat) : Nat := md5ShiftTable.getD (4 * (i / 16) + i % 4) 0

/-- T[i], the MD5 step constants, one row of the rule's table a line: i = 8r .. 8r+7 (43_md_engines.md
R218, R220). -/
def md5Const : List Word32 :=
  [0xd76aa478, 0xe8c7b756, 0x242070db, 0xc1bdceee, 0xf57c0faf, 0x4787c62a, 0xa8304613, 0xfd469501]
  ++ [0x698098d8, 0x8b44f7af, 0xffff5bb1, 0x895cd7be, 0x6b901122, 0xfd987193, 0xa679438e, 0x49b40821]
  ++ [0xf61e2562, 0xc040b340, 0x265e5a51, 0xe9b6c7aa, 0xd62f105d, 0x02441453, 0xd8a1e681, 0xe7d3fbc8]
  ++ [0x21e1cde6, 0xc33707d6, 0xf4d50d87, 0x455a14ed, 0xa9e3e905, 0xfcefa3f8, 0x676f02d9, 0x8d2a4c8a]
  ++ [0xfffa3942, 0x8771f681, 0x6d9d6122, 0xfde5380c, 0xa4beea44, 0x4bdecfa9, 0xf6bb4b60, 0xbebfbc70]
  ++ [0x289b7ec6, 0xeaa127fa, 0xd4ef3085, 0x04881d05, 0xd9d4d039, 0xe6db99e5, 0x1fa27cf8, 0xc4ac5665]
  ++ [0xf4292244, 0x432aff97, 0xab9423a7, 0xfc93a039, 0x655b59c3, 0x8f0ccc92, 0xffeff47d, 0x85845dd1]
  ++ [0x6fa87e4f, 0xfe2ce6e0, 0xa3014314, 0x4e0811a1, 0xf7537e82, 0xbd3af235, 0x2ad7d2bb, 0xeb86d391]

/-- K1[round], the SHA-0 and SHA-1 round constants (44_sha_engines.md R242). -/
def sha1Const : Nat → Word32
  | 0 => 0x5a827999
  | 1 => 0x6ed9eba1
  | 2 => 0x8f1bbcdc
  | _ => 0xca62c1d6

/-- K256[t], one row of the rule's table a line: t = 8r .. 8r+7 (44_sha_engines.md R248). -/
def sha256Const : List Word32 :=
  [0x428a2f98, 0x71374491, 0xb5c0fbcf, 0xe9b5dba5, 0x3956c25b, 0x59f111f1, 0x923f82a4, 0xab1c5ed5]
  ++ [0xd807aa98, 0x12835b01, 0x243185be, 0x550c7dc3, 0x72be5d74, 0x80deb1fe, 0x9bdc06a7, 0xc19bf174]
  ++ [0xe49b69c1, 0xefbe4786, 0x0fc19dc6, 0x240ca1cc, 0x2de92c6f, 0x4a7484aa, 0x5cb0a9dc, 0x76f988da]
  ++ [0x983e5152, 0xa831c66d, 0xb00327c8, 0xbf597fc7, 0xc6e00bf3, 0xd5a79147, 0x06ca6351, 0x14292967]
  ++ [0x27b70a85, 0x2e1b2138, 0x4d2c6dfc, 0x53380d13, 0x650a7354, 0x766a0abb, 0x81c2c92e, 0x92722c85]
  ++ [0xa2bfe8a1, 0xa81a664b, 0xc24b8b70, 0xc76c51a3, 0xd192e819, 0xd6990624, 0xf40e3585, 0x106aa070]
  ++ [0x19a4c116, 0x1e376c08, 0x2748774c, 0x34b0bcb5, 0x391c0cb3, 0x4ed8aa4a, 0x5b9cca4f, 0x682e6ff3]
  ++ [0x748f82ee, 0x78a5636f, 0x84c87814, 0x8cc70208, 0x90befffa, 0xa4506ceb, 0xbef9a3f7, 0xc67178f2]

/-- K512[t], one row of the rule's table a line: t = 4r .. 4r+3 (44_sha_engines.md R253). -/
def sha512Const : List Word64 :=
  [0x428a2f98d728ae22, 0x7137449123ef65cd, 0xb5c0fbcfec4d3b2f, 0xe9b5dba58189dbbc]
  ++ [0x3956c25bf348b538, 0x59f111f1b605d019, 0x923f82a4af194f9b, 0xab1c5ed5da6d8118]
  ++ [0xd807aa98a3030242, 0x12835b0145706fbe, 0x243185be4ee4b28c, 0x550c7dc3d5ffb4e2]
  ++ [0x72be5d74f27b896f, 0x80deb1fe3b1696b1, 0x9bdc06a725c71235, 0xc19bf174cf692694]
  ++ [0xe49b69c19ef14ad2, 0xefbe4786384f25e3, 0x0fc19dc68b8cd5b5, 0x240ca1cc77ac9c65]
  ++ [0x2de92c6f592b0275, 0x4a7484aa6ea6e483, 0x5cb0a9dcbd41fbd4, 0x76f988da831153b5]
  ++ [0x983e5152ee66dfab, 0xa831c66d2db43210, 0xb00327c898fb213f, 0xbf597fc7beef0ee4]
  ++ [0xc6e00bf33da88fc2, 0xd5a79147930aa725, 0x06ca6351e003826f, 0x142929670a0e6e70]
  ++ [0x27b70a8546d22ffc, 0x2e1b21385c26c926, 0x4d2c6dfc5ac42aed, 0x53380d139d95b3df]
  ++ [0x650a73548baf63de, 0x766a0abb3c77b2a8, 0x81c2c92e47edaee6, 0x92722c851482353b]
  ++ [0xa2bfe8a14cf10364, 0xa81a664bbc423001, 0xc24b8b70d0f89791, 0xc76c51a30654be30]
  ++ [0xd192e819d6ef5218, 0xd69906245565a910, 0xf40e35855771202a, 0x106aa07032bbd1b8]
  ++ [0x19a4c116b8d2d0c8, 0x1e376c085141ab53, 0x2748774cdf8eeb99, 0x34b0bcb5e19b48a8]
  ++ [0x391c0cb3c5c95a63, 0x4ed8aa4ae3418acb, 0x5b9cca4f7763e373, 0x682e6ff3d6b2b8a3]
  ++ [0x748f82ee5defb2fc, 0x78a5636f43172f60, 0x84c87814a1f0ab72, 0x8cc702081a6439ec]
  ++ [0x90befffa23631e28, 0xa4506cebde82bde9, 0xbef9a3f7b2c67915, 0xc67178f2e372532b]
  ++ [0xca273eceea26619c, 0xd186b8c721c0c207, 0xeada7dd6cde0eb1e, 0xf57d4f7fee6ed178]
  ++ [0x06f067aa72176fba, 0x0a637dc5a2c898a6, 0x113f9804bef90dae, 0x1b710b35131c471b]
  ++ [0x28db77f523047d84, 0x32caab7b40c72493, 0x3c9ebe0a15c9bebc, 0x431d67c49c100d4c]
  ++ [0x4cc5d4becb3e42b6, 0x597f299cfc657e2a, 0x5fcb6fab3ad6faec, 0x6c44198c4a475817]

end Sys2Proof
end

