-- ==== Sys2Proof/Machine/MdEngine.lean ====
section
/-! DEFINITION. The MD4 and MD5 compression engines (43_md_engines.md R210 to R223). -/

namespace Sys2Proof

/-- The four state words, or the four working variables (43_md_engines.md R210). -/
structure MdVars where
  a : Word32
  b : Word32
  c : Word32
  d : Word32
  deriving DecidableEq, Repr

/-- The feed-forward (43_md_engines.md R211). -/
def MdVars.add (x y : MdVars) : MdVars := ⟨x.a + y.a, x.b + y.b, x.c + y.c, x.d + y.d⟩

/-- F of both engines (43_md_engines.md R212, R217). -/
def mdF (x y z : Word32) : Word32 := (x &&& y) ||| (~~~x &&& z)

/-- H of both engines (43_md_engines.md R212, R217). -/
def mdH (x y z : Word32) : Word32 := x ^^^ y ^^^ z

/-- G of MD4 (43_md_engines.md R212). -/
def md4G (x y z : Word32) : Word32 := (x &&& y) ||| (x &&& z) ||| (y &&& z)

/-- G of MD5 (43_md_engines.md R217). -/
def md5G (x y z : Word32) : Word32 := (x &&& z) ||| (y &&& ~~~z)

/-- I of MD5 (43_md_engines.md R217). -/
def md5I (x y z : Word32) : Word32 := y ^^^ (x ||| ~~~z)

/-- f4_j, the function of MD4 round j (43_md_engines.md R212). -/
def md4Fun : Nat → Word32 → Word32 → Word32 → Word32
  | 0 => mdF
  | 1 => md4G
  | _ => mdH

/-- f5_j, the function of MD5 round j (43_md_engines.md R217). -/
def md5Fun : Nat → Word32 → Word32 → Word32 → Word32
  | 0 => mdF
  | 1 => md5G
  | 2 => mdH
  | _ => md5I

/-- MD4 step i (43_md_engines.md R215): the result goes to the next word in turn. -/
def md4Step (m : List Word32) (v : MdVars) (i : Nat) : MdVars :=
  let j := i / 16
  let t := (v.a + md4Fun j v.b v.c v.d + m.getD (md4Index i) 0 + md4Const j).rotateLeft (md4Shift i)
  ⟨v.d, t, v.b, v.c⟩

/-- MD5 step i (43_md_engines.md R221). -/
def md5Step (m : List Word32) (v : MdVars) (i : Nat) : MdVars :=
  let j := i / 16
  let t := (v.a + md5Fun j v.b v.c v.d + m.getD (md5Index i) 0 + md5Const.getD i 0).rotateLeft
    (md5Shift i)
  ⟨v.d, v.b + t, v.b, v.c⟩

/-- `Compress_MD4` on the block words M[0..15] (43_md_engines.md R215). -/
def compressMd4 (h : MdVars) (m : List Word32) : MdVars :=
  h.add ((List.range 48).foldl (md4Step m) h)

/-- `Compress_MD5` on the block words M[0..15] (43_md_engines.md R222). -/
def compressMd5 (h : MdVars) (m : List Word32) : MdVars :=
  h.add ((List.range 64).foldl (md5Step m) h)

/-- `Sched_MD4`: the message word each step reads (43_md_engines.md R216). -/
def schedMd4 (m : List Word32) : List Word32 := (List.range 48).map fun i => m.getD (md4Index i) 0

/-- `Sched_MD5`: the message word each step reads (43_md_engines.md R223). -/
def schedMd5 (m : List Word32) : List Word32 := (List.range 64).map fun i => m.getD (md5Index i) 0

end Sys2Proof
end

