-- ==== Sys2Proof/Machine/ShaEngine.lean ====
section
/-! DEFINITION. The SHA-0, SHA-1, SHA-256 and SHA-512 compression engines (44_sha_engines.md R240 to
R255). -/

namespace Sys2Proof

/-! ## The bitwise functions, on words of the engine's width -/

section
variable {n : Nat} (x y z : BitVec n)

/-- Ch (44_sha_engines.md R240): `x` chooses, bit by bit, between `y` and `z`. -/
def shaCh : BitVec n := (x &&& y) ^^^ (~~~x &&& z)

/-- Parity (44_sha_engines.md R240). -/
def shaParity : BitVec n := x ^^^ y ^^^ z

/-- Maj (44_sha_engines.md R240): the bit that at least two of `x`, `y`, `z` have. -/
def shaMaj : BitVec n := (x &&& y) ^^^ (x &&& z) ^^^ (y &&& z)

end

/-- A schedule grown by `k` words, each computed from the words before it: the loops of
44_sha_engines.md R241, R247, R252, with `t` the number of words so far. -/
def extendSched {n : Nat} (next : List (BitVec n) → BitVec n) : Nat → List (BitVec n) → List (BitVec n)
  | 0, ws => ws
  | k + 1, ws => extendSched next k (ws ++ [next ws])

/-- W[t-j], counted back from the end of the schedule so far. -/
def schedBack {n : Nat} (ws : List (BitVec n)) (j : Nat) : BitVec n := ws.getD (ws.length - j) 0

/-! ## SHA-0 and SHA-1 -/

/-- The five state words, or the five working variables (44_sha_engines.md R243). -/
structure Sha1Vars where
  a : Word32
  b : Word32
  c : Word32
  d : Word32
  e : Word32
  deriving DecidableEq, Repr

/-- The feed-forward (44_sha_engines.md R244). -/
def Sha1Vars.add (x y : Sha1Vars) : Sha1Vars :=
  ⟨x.a + y.a, x.b + y.b, x.c + y.c, x.d + y.d, x.e + y.e⟩

/-- The taps both schedules share: W[t-3] ^ W[t-8] ^ W[t-14] ^ W[t-16] (44_sha_engines.md R241). -/
def sha1Taps (ws : List Word32) : Word32 :=
  schedBack ws 3 ^^^ schedBack ws 8 ^^^ schedBack ws 14 ^^^ schedBack ws 16

/-- `Sched_SHA0` (44_sha_engines.md R241): no rotation. -/
def schedSha0 (m : List Word32) : List Word32 := extendSched sha1Taps 64 m

/-- `Sched_SHA1` (44_sha_engines.md R241): rotated left by 1. -/
def schedSha1 (m : List Word32) : List Word32 :=
  extendSched (fun ws => (sha1Taps ws).rotateLeft 1) 64 m

/-- f_t by round (44_sha_engines.md R242). -/
def sha1Fun : Nat → Word32 → Word32 → Word32 → Word32
  | 0 => shaCh
  | 1 => shaParity
  | 2 => shaMaj
  | _ => shaParity

/-- SHA-0 and SHA-1 step t on schedule `ws` (44_sha_engines.md R243). -/
def sha1Step (ws : List Word32) (v : Sha1Vars) (t : Nat) : Sha1Vars :=
  let x := v.a.rotateLeft 5 + sha1Fun (t / 20) v.b v.c v.d + v.e + sha1Const (t / 20) + ws.getD t 0
  ⟨x, v.a, v.b.rotateLeft 30, v.c, v.d⟩

/-- `Compress_SHA0` and `Compress_SHA1` on their schedule (44_sha_engines.md R245). -/
def compressSha1 (h : Sha1Vars) (ws : List Word32) : Sha1Vars :=
  h.add ((List.range 80).foldl (sha1Step ws) h)

/-! ## SHA-256 and SHA-512 -/

/-- The eight state words, or the eight working variables (44_sha_engines.md R249, R254). -/
structure Sha2Vars (n : Nat) where
  a : BitVec n
  b : BitVec n
  c : BitVec n
  d : BitVec n
  e : BitVec n
  f : BitVec n
  g : BitVec n
  h : BitVec n
  deriving DecidableEq, Repr

/-- The feed-forward (44_sha_engines.md R250, R255). -/
def Sha2Vars.add {n : Nat} (x y : Sha2Vars n) : Sha2Vars n :=
  ⟨x.a + y.a, x.b + y.b, x.c + y.c, x.d + y.d, x.e + y.e, x.f + y.f, x.g + y.g, x.h + y.h⟩

/-- Σ0 of SHA-256 (44_sha_engines.md R246). -/
def sha256BigSigma0 (x : Word32) : Word32 := x.rotateRight 2 ^^^ x.rotateRight 13 ^^^ x.rotateRight 22
/-- Σ1 of SHA-256 (44_sha_engines.md R246). -/
def sha256BigSigma1 (x : Word32) : Word32 := x.rotateRight 6 ^^^ x.rotateRight 11 ^^^ x.rotateRight 25
/-- σ0 of SHA-256 (44_sha_engines.md R246). -/
def sha256Sigma0 (x : Word32) : Word32 := x.rotateRight 7 ^^^ x.rotateRight 18 ^^^ x >>> 3
/-- σ1 of SHA-256 (44_sha_engines.md R246). -/
def sha256Sigma1 (x : Word32) : Word32 := x.rotateRight 17 ^^^ x.rotateRight 19 ^^^ x >>> 10
/-- Σ0 of SHA-512 (44_sha_engines.md R251). -/
def sha512BigSigma0 (x : Word64) : Word64 :=
  x.rotateRight 28 ^^^ x.rotateRight 34 ^^^ x.rotateRight 39
/-- Σ1 of SHA-512 (44_sha_engines.md R251). -/
def sha512BigSigma1 (x : Word64) : Word64 :=
  x.rotateRight 14 ^^^ x.rotateRight 18 ^^^ x.rotateRight 41
/-- σ0 of SHA-512 (44_sha_engines.md R251). -/
def sha512Sigma0 (x : Word64) : Word64 := x.rotateRight 1 ^^^ x.rotateRight 8 ^^^ x >>> 7
/-- σ1 of SHA-512 (44_sha_engines.md R251). -/
def sha512Sigma1 (x : Word64) : Word64 := x.rotateRight 19 ^^^ x.rotateRight 61 ^^^ x >>> 6

/-- The next word of a SHA-2 schedule, σ1(W[t-2]) + W[t-7] + σ0(W[t-15]) + W[t-16]
(44_sha_engines.md R247, R252). -/
def sha2Next {n : Nat} (sigma0 sigma1 : BitVec n → BitVec n) (ws : List (BitVec n)) : BitVec n :=
  sigma1 (schedBack ws 2) + schedBack ws 7 + sigma0 (schedBack ws 15) + schedBack ws 16

/-- `Sched_SHA256` (44_sha_engines.md R247). -/
def schedSha256 (m : List Word32) : List Word32 :=
  extendSched (sha2Next sha256Sigma0 sha256Sigma1) 48 m

/-- `Sched_SHA512` (44_sha_engines.md R252). -/
def schedSha512 (m : List Word64) : List Word64 :=
  extendSched (sha2Next sha512Sigma0 sha512Sigma1) 64 m

/-- The SHA-256 and SHA-512 step t, with the width's Σ functions, constants and schedule
(44_sha_engines.md R249, R254). -/
def sha2Step {n : Nat} (bigSigma0 bigSigma1 : BitVec n → BitVec n) (ks ws : List (BitVec n))
    (v : Sha2Vars n) (t : Nat) : Sha2Vars n :=
  let t1 := v.h + bigSigma1 v.e + shaCh v.e v.f v.g + ks.getD t 0 + ws.getD t 0
  let t2 := bigSigma0 v.a + shaMaj v.a v.b v.c
  ⟨t1 + t2, v.a, v.b, v.c, v.d + t1, v.e, v.f, v.g⟩

/-- `Compress_SHA256` on its schedule (44_sha_engines.md R250). -/
def compressSha256 (h : Sha2Vars 32) (ws : List Word32) : Sha2Vars 32 :=
  h.add ((List.range 64).foldl (sha2Step sha256BigSigma0 sha256BigSigma1 sha256Const ws) h)

/-- `Compress_SHA512` on its schedule (44_sha_engines.md R255). -/
def compressSha512 (h : Sha2Vars 64) (ws : List Word64) : Sha2Vars 64 :=
  h.add ((List.range 80).foldl (sha2Step sha512BigSigma0 sha512BigSigma1 sha512Const ws) h)

end Sys2Proof
end

