-- ==== Sys2Proof/Machine/BlockEngine.lean ====
section
/-! DEFINITION. The engine interface and block processing shared by all commands
(42_block_engine.md R190, R191, R194 to R196). -/

namespace Sys2Proof

/-- Byte strings cut into `n` words of `k` bytes, the rest ignored. -/
def chunks (k : Nat) : Nat → List Byte → List (List Byte)
  | 0, _ => []
  | n + 1, bytes => bytes.take k :: chunks k n (bytes.drop k)

/-- The block words M[0..15] of a 32-bit engine (42_block_engine.md R195). -/
def Engine.words32 (e : Engine) (P : List Byte) : List Word32 :=
  (chunks 4 16 P).map fun b => BitVec.ofNat 32 (e.wordVal b)

/-- The block words M[0..15] of the SHA-512 engine (42_block_engine.md R195). -/
def Engine.words64 (e : Engine) (P : List Byte) : List Word64 :=
  (chunks 8 16 P).map fun b => BitVec.ofNat 64 (e.wordVal b)

/-- Words zero-extended to 64 bits, as W and H hold them (10_state.md R34, R38). -/
def zext64 {n : Nat} (ws : List (BitVec n)) : List Word64 := ws.map (BitVec.setWidth 64)

/-- `Sched_e(P)`, NS words, zero-extended (42_block_engine.md R191). -/
def Engine.sched (e : Engine) (P : List Byte) : List Word64 :=
  match e with
  | .md4 => zext64 (schedMd4 (e.words32 P))
  | .md5 => zext64 (schedMd5 (e.words32 P))
  | .sha0 => zext64 (schedSha0 (e.words32 P))
  | .sha1 => zext64 (schedSha1 (e.words32 P))
  | .sha256 => zext64 (schedSha256 (e.words32 P))
  | .sha512 => schedSha512 (e.words64 P)

/-- The low half of chaining word `i`, all a 32-bit engine reads of it (42_block_engine.md R196). -/
def lowWord (h : Vector Word64 8) (i : Fin 8) : Word32 := h[i].setWidth 32

/-- The MD engines' state in H (42_block_engine.md R196). -/
def mdState (h : Vector Word64 8) : MdVars := ⟨lowWord h 0, lowWord h 1, lowWord h 2, lowWord h 3⟩

/-- The SHA-0 and SHA-1 engines' state in H (42_block_engine.md R196). -/
def sha1State (h : Vector Word64 8) : Sha1Vars :=
  ⟨lowWord h 0, lowWord h 1, lowWord h 2, lowWord h 3, lowWord h 4⟩

/-- The SHA-256 engine's state in H (42_block_engine.md R196). -/
def sha256State (h : Vector Word64 8) : Sha2Vars 32 :=
  ⟨lowWord h 0, lowWord h 1, lowWord h 2, lowWord h 3, lowWord h 4, lowWord h 5, lowWord h 6,
    lowWord h 7⟩

/-- The SHA-512 engine's state in H (42_block_engine.md R196). -/
def sha512State (h : Vector Word64 8) : Sha2Vars 64 :=
  ⟨h[0], h[1], h[2], h[3], h[4], h[5], h[6], h[7]⟩

/-- The state words in order. -/
def MdVars.toList (v : MdVars) : List Word32 := [v.a, v.b, v.c, v.d]
/-- The state words in order. -/
def Sha1Vars.toList (v : Sha1Vars) : List Word32 := [v.a, v.b, v.c, v.d, v.e]
/-- The state words in order. -/
def Sha2Vars.toList {n : Nat} (v : Sha2Vars n) : List (BitVec n) :=
  [v.a, v.b, v.c, v.d, v.e, v.f, v.g, v.h]

/-- `Compress_e(hin, P)`, K words, zero-extended (42_block_engine.md R190, R194). -/
def Engine.compressWords (e : Engine) (h : Vector Word64 8) (P : List Byte) : List Word64 :=
  match e with
  | .md4 => zext64 (compressMd4 (mdState h) (e.words32 P)).toList
  | .md5 => zext64 (compressMd5 (mdState h) (e.words32 P)).toList
  | .sha0 => zext64 (compressSha1 (sha1State h) (schedSha0 (e.words32 P))).toList
  | .sha1 => zext64 (compressSha1 (sha1State h) (schedSha1 (e.words32 P))).toList
  | .sha256 => zext64 (compressSha256 (sha256State h) (schedSha256 (e.words32 P))).toList
  | .sha512 => (compressSha512 (sha512State h) (schedSha512 (e.words64 P))).toList

/-- W after a block: `Sched_e(P)` for t < NS, then 0 (42_block_engine.md R194). -/
def Engine.schedArray (e : Engine) (P : List Byte) : Vector Word64 80 :=
  let s := e.sched P
  Vector.ofFn fun t => s.getD t.val 0

/-- H after a block: the K new words, and h[K..7] unchanged (42_block_engine.md R194). -/
def Engine.chain (e : Engine) (h : Vector Word64 8) (P : List Byte) : Vector Word64 8 :=
  let hout := e.compressWords h P
  Vector.ofFn fun i => hout.getD i.val h[i]

namespace Machine

/-- RunBlock with its result going to H, as ABSORB and COMPRESS use it; it also writes W
(42_block_engine.md R194). -/
def State.runBlock (s : State) (P : List Byte) : State :=
  { s with h := s.engine.chain s.h P, w := s.engine.schedArray P }

end Machine

end Sys2Proof
end

