-- ==== Sys2Proof/Machine/BlockCommands.lean ====
section
/-! DEFINITION. The block-engine commands COMPRESS and EXPAND (42_block_engine.md R192, R193). -/

namespace Sys2Proof.Machine

/-- COMPRESS (42_block_engine.md R192): H and W only. -/
def execCompress (s : State) : Host.Outcome State Fault Refusal :=
  if s.phase = .unconf then s.refuse .noMode else .next (s.runBlock s.block)

/-- EXPAND (42_block_engine.md R193): W only. -/
def execExpand (s : State) : Host.Outcome State Fault Refusal :=
  if s.phase = .unconf then s.refuse .noMode
  else .next { s with w := s.engine.schedArray s.block }

end Sys2Proof.Machine
end

