-- ==== Sys2Proof/Machine/Control.lean ====
section
/-! DEFINITION. The control commands INIT, INITK and CLRERR (40_control.md R120 to R124). -/

namespace Sys2Proof

/-- H as INIT loads it: `zext_64(IV_m[i])` for i < K, 0 for the rest (40_control.md R121). -/
def Mode.ivWords (m : Mode) : Vector Word64 8 := Vector.ofFn fun i => m.iv.getD i.val 0

namespace Machine

/-- INIT `m` (40_control.md R121): legal in every phase; DG, W, DIN, the error record, CF and the ALU
registers are not written. -/
def execInit (m : Mode) (s : State) : Host.Outcome State Fault Refusal :=
  .next { s.startMessage m false with h := m.ivWords, outbits := m.defaultOutbits }

/-- INITK `m` (40_control.md R123): H and OUTBITS stay as the host wrote them. -/
def execInitk (m : Mode) (s : State) : Host.Outcome State Fault Refusal :=
  .next (s.startMessage m true)

/-- CLRERR (40_control.md R124). -/
def execClrerr (s : State) : Host.Outcome State Fault Refusal := .next s.clearError

end Machine

end Sys2Proof
end

