-- ==== Sys2Proof/Machine/Padding.lean ====
section
/-! DEFINITION. The padding engine and the digest output (41_streaming.md R155 to R161), and the
whole-message function (R168). -/

namespace Sys2Proof

/-- `LenField_e(L)` (41_streaming.md R158): `L mod 2^64` in 8 bytes, or `L` in 16 (SHA512), in the
engine's byte order. -/
def Engine.lenField (e : Engine) (L : Nat) : List Byte := e.serialize e.lenBytes L

/-- The first padding block before the length field: the buffered bits, the 1 bit, zeros
(41_streaming.md R155, R156). `r` is the number of buffered bits. -/
def padHead (n : Nat) (blk : List Byte) (r : Nat) : List Byte :=
  (List.range n).map fun j =>
    let kept : Byte := if j < (r + 7) / 8 then blk.getD j 0 else 0
    if j = r / 8 then
      (if r % 8 ≠ 0 then kept &&& highBitsMask (r % 8) else kept) ||| BitVec.ofNat 8 (0x80 >>> (r % 8))
    else kept

/-- A block with its last bytes replaced by the length field (41_streaming.md R155). -/
def withLenField (P lf : List Byte) : List Byte := P.take (P.length - lf.length) ++ lf

/-- `Pad_e(BLK, L)`: the final one or two blocks (41_streaming.md R155, R157). -/
def Engine.pad (e : Engine) (blk : List Byte) (L : Nat) : List (List Byte) :=
  let r := L % e.blockBits
  let P := padHead e.blockBytes blk r
  if r + 1 + e.lenBits ≤ e.blockBits then [withLenField P (e.lenField L)]
  else [P, withLenField (List.replicate e.blockBytes 0) (e.lenField L)]

/-- `Ser_e(h[0..K-1])`: each state word in the engine's order (41_streaming.md R160). -/
def Engine.ser (e : Engine) (h : Vector Word64 8) : List Byte :=
  (h.toList.take e.stateWords).flatMap fun x => e.serialize e.wordBytes x.toNat

/-- `Trunc(d, OB)`: the first OB bits of `d`, then zeros (41_streaming.md R161). -/
def truncDigest (d : List Byte) (ob : Nat) : Vector Byte 64 :=
  Vector.ofFn fun j =>
    if j.val < ob / 8 then d.getD j.val 0
    else if j.val = ob / 8 ∧ ob % 8 ≠ 0 then d.getD j.val 0 &&& highBitsMask (ob % 8)
    else 0

/-- The chaining words after a list of blocks, in order (41_streaming.md R154, R168). -/
def Engine.chainBlocks (e : Engine) (h : Vector Word64 8) (blocks : List (List Byte)) :
    Vector Word64 8 :=
  blocks.foldl e.chain h

/-- The first `nb` whole blocks of a message (41_streaming.md R168). -/
def Engine.wholeBlocks (e : Engine) (nb : Nat) (M : List Byte) : List (List Byte) :=
  chunks e.blockBytes nb M

/-- `Hash_e(iv, M, L)`, the whole-message function (41_streaming.md R168). -/
def Engine.hash (e : Engine) (iv : Vector Word64 8) (M : List Byte) (L : Nat) : List Byte :=
  let nb := L / e.blockBits
  let h := e.chainBlocks iv (e.wholeBlocks nb M)
  e.ser (e.chainBlocks h (e.pad (M.drop (nb * e.blockBytes)) L))

end Sys2Proof
end

