-- ==== Sys2Proof/Machine/Streaming.lean ====
section
/-! DEFINITION. The streaming commands ABSORB, ABSORBBITS and FINAL (41_streaming.md R151 to R154). -/

namespace Sys2Proof.Machine

/-- A byte placed at its position in the block buffer and counted: AppendByte before its block check
(41_streaming.md R152). -/
def State.pushByte (s : State) (b : Byte) : State :=
  { s with blk := s.blk.setIfInBounds (s.bufbits / 8) b, totlen := s.totlen + 8 }

/-- A block compressed exactly when the buffer is full (41_streaming.md R152). -/
def State.compressIfFull (s : State) : State := if s.bufbits = 0 then s.runBlock s.block else s

/-- `AppendByte(b)` (41_streaming.md R152). -/
def State.appendByte (s : State) (b : Byte) : State := (s.pushByte b).compressIfFull

/-- AppendByte for each byte in order (41_streaming.md R151, R165). -/
def State.appendBytes (s : State) (bytes : List Byte) : State := bytes.foldl State.appendByte s

/-- DIN[8j+7:8j] for j = 0 .. n-1, in that order (41_streaming.md R151). -/
def State.dinBytes (s : State) (n : Nat) : List Byte := (List.range n).map (laneByte s.din)

/-- ABSORB `n` (41_streaming.md R151). A count above 4 is refused by decode (30_encoding.md R99) before
this rule's state checks; an instruction that carries one anyway is refused the same way
(log entry 7). -/
def execAbsorb (n : BitVec 4) (s : State) : Host.Outcome State Fault Refusal :=
  if 4 < n.toNat then s.refuse .badCount
  else if s.phase = .unconf then s.refuse .noMode
  else if s.bitpend then s.refuse .bitPending
  else if n = 0 then .next s
  else .next ((s.appendBytes (s.dinBytes n.toNat)).withPhase .accum)

/-- The partial byte stored and counted (41_streaming.md R153): the high `n` bits of DIN[7:0]. -/
def State.appendBits (s : State) (n : Nat) : State :=
  { s with
    blk := s.blk.setIfInBounds (s.bufbits / 8) (laneByte s.din 0 &&& highBitsMask n)
    totlen := s.totlen + BitVec.ofNat 128 n
    bitpend := true
    phase := .accum }

/-- ABSORBBITS `n` (41_streaming.md R153). A count above 7 is refused by decode before this rule's state
checks (log entry 7). -/
def execAbsorbbits (n : BitVec 4) (s : State) : Host.Outcome State Fault Refusal :=
  if 7 < n.toNat then s.refuse .badCount
  else if s.phase = .unconf then s.refuse .noMode
  else if s.engine ≠ .sha512 then s.refuse .bitMode
  else if s.bitpend then s.refuse .bitPending
  else if n = 0 then .next s
  else .next (s.appendBits n.toNat)

/-- The padding blocks of the message absorbed so far (41_streaming.md R154, R155). -/
def State.padBlocks (s : State) : List (List Byte) := s.engine.pad s.blk.toList s.totlen.toNat

/-- The digest FINAL delivers: the padding blocks run on a copy of H, serialized and truncated
(41_streaming.md R154). -/
def State.digest (s : State) : Vector Byte 64 :=
  truncDigest (s.engine.ser (s.engine.chainBlocks s.h s.padBlocks)) s.outbits.toNat

/-- W after a run of blocks: the schedule of the last one (70_reset_and_hazards.md R374). -/
def State.lastSched (s : State) (blocks : List (List Byte)) : Vector Word64 80 :=
  blocks.foldl (fun _ P => s.engine.schedArray P) s.w

/-- FINAL (41_streaming.md R154): writes DG, W and PHASE only. -/
def execFinal (s : State) : Host.Outcome State Fault Refusal :=
  if s.phase = .unconf then s.refuse .noMode
  else if s.outbits.toNat < 1 ∨ s.engine.stateBits < s.outbits.toNat then s.refuse .badOutbits
  else .next { s with dg := s.digest, w := s.lastSched s.padBlocks, phase := .finalized }

end Sys2Proof.Machine
end

