-- ==== Sys2Proof/Machine/Dispatch.lean ====
section
/-! DEFINITION. One arm per command, each a direct call of its meaning. -/

namespace Sys2Proof.Machine

def exec (i : Instr) (s : State) : Host.Outcome State Fault Refusal :=
  match i with
  | .init m => Sys2Proof.Machine.execInit m s
  | .initk m => Sys2Proof.Machine.execInitk m s
  | .clrerr => Sys2Proof.Machine.execClrerr s
  | .absorb n => Sys2Proof.Machine.execAbsorb n s
  | .absorbbits n => Sys2Proof.Machine.execAbsorbbits n s
  | .final => Sys2Proof.Machine.execFinal s
  | .compress => Sys2Proof.Machine.execCompress s
  | .expand => Sys2Proof.Machine.execExpand s
  | .wadd w => Sys2Proof.Machine.execWadd w s
  | .cadd w => Sys2Proof.Machine.execCadd w s
  | .wsub w => Sys2Proof.Machine.execWsub w s
  | .bsub w => Sys2Proof.Machine.execBsub w s
  | .cmul w => Sys2Proof.Machine.execCmul w s
  | .rotl w => Sys2Proof.Machine.execRotl w s
  | .rotr w => Sys2Proof.Machine.execRotr w s
  | .shl w => Sys2Proof.Machine.execShl w s
  | .shr w => Sys2Proof.Machine.execShr w s
  | .bswap w => Sys2Proof.Machine.execBswap w s
  | .and w => Sys2Proof.Machine.execAnd w s
  | .or w => Sys2Proof.Machine.execOr w s
  | .xor w => Sys2Proof.Machine.execXor w s
  | .not w => Sys2Proof.Machine.execNot w s

end Sys2Proof.Machine
end

