-- ==== Sys2Proof/Machine/Port.lean ====
section
/-! DEFINITION. What one port event does (20_memory.md R67 to R74, 10_state.md R22,
70_reset_and_hazards.md R371). -/

namespace Sys2Proof.Machine

/-- A command word written to CMD: decoded and executed, or refused with its code
(10_state.md R22, 30_encoding.md R99, 60_exceptions.md R341). -/
def State.issue (s : State) (v : Word32) : Result :=
  match decode v with
  | .error c => s.refuse c
  | .ok i => exec i s

/-- `BusWrite` at a word offset (20_memory.md R68, R69): CMD issues a command, a reserved offset ignores
the write, any other register as `writeReg` says. -/
def State.busWrite (s : State) (off : WordOffset) (v : Word32) : Result :=
  match portReg off with
  | none => .next s
  | some .cmd => s.issue v
  | some reg => .next (s.writeReg reg v)

/-- One port event performed completely, a whole command included (20_memory.md R74). The value a read
returns goes to the host. -/
def State.perform (s : State) : PortEvent → Result
  | .read off => .next { s with responses := s.responses ++ [s.busRead off] }
  | .write off v => s.busWrite off v
  | .reset => .next s.afterReset

/-- The state with its oldest pending event taken out; `none` if the host has issued nothing. -/
def State.nextEvent (s : State) : Option (PortEvent × State) :=
  match s.pending with
  | [] => none
  | e :: rest => some (e, { s with pending := rest })

/-- A command word written to CMD as the next event (log entry 2): the host's own move, since the core
fetches nothing (10_state.md R37). -/
def State.placeCommand (s : State) (v : Word32) : State :=
  { s with pending := .write PortReg.cmd.offset v :: s.pending }

end Sys2Proof.Machine
end

