-- ==== Sys2Proof/Machine/Step.lean ====
section
/-! DEFINITION. The one step: perform the oldest pending port event, or stay idle (20_memory.md R74,
60_exceptions.md R355); and where the host places the command the next step runs. -/

namespace Sys2Proof.Machine

/-- The host's accesses one at a time, in the order it issued them (20_memory.md R74). With none pending
the core does nothing: it has no timer and no activity of its own (60_exceptions.md R349, R351). -/
def step (s : State) : Host.Outcome State Fault Refusal :=
  match s.nextEvent with
  | none => .next s
  | some (e, t) => t.perform e

/-- The command word `w` placed where the next step takes it: as the oldest pending access, a write to
CMD (10_state.md R22; log entry 2). -/
def State.withFetchWord (s : State) (_nbits w : Nat) : State := s.placeCommand (BitVec.ofNat 32 w)

end Sys2Proof.Machine
end

