-- ==== Sys2Proof/Machine/HostProcedures.lean ====
section
/-! DEFINITION. The host statements and pseudo-instructions as port events (30_encoding.md R102, R103)
and the host procedures built from them: SHA-512/t and ruminate (41_streaming.md R170, R172, R173). They
are the host's programs, not commands of the core: everything here goes through the port. -/

namespace Sys2Proof.Machine

/-! ## Statements (R102) -/

/-- `WR <reg>, <value>`. -/
def wr (reg : PortReg) (v : Word32) : PortEvent := .write reg.offset v

/-- `RD <reg>`. -/
def rd (reg : PortReg) : PortEvent := .read reg.offset

/-- A command statement: `WR 0x004, <encoding>`. -/
def cmd (i : Instr) : PortEvent := wr .cmd (encode i)

/-- A command statement with its codes spelled as numbers, reserved ones included
(`INIT 12`, `WADD.w5`, `ABSORB 9`). -/
def rawCmd (opc : BitVec 8) (f1 f2 : BitVec 4) : PortEvent := wr .cmd (commandWord opc f1 f2)

/-! ## Running statements in issue order (20_memory.md R74) -/

/-- What comes after an access that completed. -/
def andThen (r : Result) (k : State → Result) : Result :=
  match r with
  | .next s => k s
  | .fault f => .fault f
  | .refused f => .refused f

/-- Statements performed one after another. -/
def runEvents : List PortEvent → State → Result
  | [], s => .next s
  | e :: es, s => andThen (s.perform e) (runEvents es)

/-! ## Pseudo-instructions (R103) -/

/-- `TOBE.<w>`. -/
def toBe (w : Width) : List PortEvent := [cmd (.bswap w)]

/-- `TOLE.<w>`. -/
def toLe (w : Width) : List PortEvent :=
  [wr (.b 0) 0, wr (.b 1) 0, wr (.b 2) 0, wr (.b 3) 0, cmd (.or w)]

/-- `LDA <v>`. -/
def lda (v : Word128) : List PortEvent := (List.finRange 4).map fun k => wr (.a k) (wordOf v k.val)

/-- `LDB <v>`. -/
def ldb (v : Word128) : List PortEvent := (List.finRange 4).map fun k => wr (.b k) (wordOf v k.val)

/-- `LDC <v>`. -/
def ldc (v : Word128) : List PortEvent := (List.finRange 4).map fun k => wr (.c k) (wordOf v k.val)

/-- One group of `FEED`: `WR DIN, le(g)`; `ABSORB <len(g)>`. -/
def feedGroup (g : List Byte) : List PortEvent :=
  [wr .din (BitVec.ofNat 32 (leVal g)), cmd (.absorb (BitVec.ofNat 4 g.length))]

/-- `FEED <bytes>`: groups of up to 4 bytes from the start. -/
def feed : List Byte → List PortEvent
  | [] => []
  | [b0] => feedGroup [b0]
  | [b0, b1] => feedGroup [b0, b1]
  | [b0, b1, b2] => feedGroup [b0, b1, b2]
  | b0 :: b1 :: b2 :: b3 :: rest => feedGroup [b0, b1, b2, b3] ++ feed rest

/-- `FEEDBITS <byte>, <k>`. -/
def feedBits (x : Byte) (k : BitVec 4) : List PortEvent :=
  [wr .din (x.setWidth 32), cmd (.absorbbits k)]

/-- `HASH <mode>, <bytes>`. -/
def hashStatements (m : Mode) (bytes : List Byte) : List PortEvent :=
  cmd (.init m) :: feed bytes ++ [cmd .final]

/-- `SETIV <v0 .. v7>`. -/
def setIv (v : Vector Word64 8) : List PortEvent :=
  (List.finRange 8).flatMap fun i => [wr (.h i 0) (wordOf v[i] 0), wr (.h i 1) (wordOf v[i] 1)]

/-- The word offset of `DG+4j`: 0x300 + 4j (30_encoding.md R102). It is used only for the `j` whose offset
lies in the window, below 4096 (20_memory.md R61); see `getDigest`. -/
def digestOffset (j : Nat) : WordOffset := BitVec.ofNat 10 (0x300 / 4 + j)

/-- `GETDIGEST <n>`: reads of DG+4j for j = 0 .. ceil(n/4) - 1. Words 16 to 63 are reserved and read 0
(41_streaming.md R170; log entry 12). From j = 832 on (n above 3328) DG+4j lies past the window and is no
access of the port (20_memory.md R61); the spec does not say what the statement then does, and the model
leaves those reads out; DESIGN CHOICE, log entry 16. -/
def getDigest (n : Nat) : List PortEvent :=
  ((List.range ((n + 3) / 4)).filter fun j => decide (0x300 + 4 * j < 4096)).map
    fun j => .read (digestOffset j)

/-- The digest bytes of the words read: the first `n` bytes of their little-endian lanes. -/
def bytesOfWords (n : Nat) (ws : List Word32) : List Byte :=
  (ws.flatMap fun v => (List.range 4).map (laneByte v)).take n

/-! ## What the host reads through the port (reads have no effect, 20_memory.md R67) -/

/-- `get_digest_bytes` of length `n` (41_streaming.md R170): the first `min(n, 64)` bytes of DG, read
through the port, then zeros, never other state (log entry 12). -/
def State.readDigest (s : State) (n : Nat) : List Byte :=
  let k := min n 64
  bytesOfWords k ((List.range ((k + 3) / 4)).map fun j => s.busRead (digestOffset j))
    ++ List.replicate (n - 64) 0

/-- A 64-bit chaining word as the host reads it, two words (20_memory.md R64). -/
def State.readH (s : State) (i : Fin 8) : Word64 :=
  s.busRead (PortReg.h i 1).offset ++ s.busRead (PortReg.h i 0).offset

/-- The bytes RUMINATE re-hashes: DG[0 .. ceil(OUTBITS/8) - 1] (41_streaming.md R173). -/
def State.producedDigest (s : State) : List Byte :=
  s.readDigest (((s.busRead PortReg.outbits.offset).toNat + 7) / 8)

/-! ## Host procedures -/

/-- How an "Expanded" message starts: SETIV, the OUTBITS write, INITK (41_streaming.md R172, R173;
70_reset_and_hazards.md R372). -/
def startExpanded (m : Mode) (iv : Vector Word64 8) (outbits : Word32) : List PortEvent :=
  setIv iv ++ [wr .outbits outbits, cmd (.initk m)]

/-- A message: its start, its bytes, FINAL. -/
def message (start : List PortEvent) (bytes : List Byte) : List PortEvent :=
  start ++ feed bytes ++ [cmd .final]

/-- ascii("SHA-512/" || decimal(t)) (41_streaming.md R172). -/
def sha512tName (t : Nat) : List Byte :=
  [0x53, 0x48, 0x41, 0x2d, 0x35, 0x31, 0x32, 0x2f]
    ++ (Nat.toDigits 10 t).map fun ch => BitVec.ofNat 8 ch.toNat

/-- The base IV: the host's read-modify-write of H with 0xa5a5a5a5a5a5a5a5 (41_streaming.md R172). -/
def State.maskedH (s : State) : Vector Word64 8 :=
  Vector.ofFn fun i => s.readH i ^^^ 0xa5a5a5a5a5a5a5a5

/-- `IVGEN(t)` up to its FINAL (41_streaming.md R172). -/
def ivGen (t : Nat) (s : State) : Result :=
  andThen (runEvents [cmd (.init .sha512)] s) fun s1 =>
    runEvents (message (startExpanded .sha512 s1.maskedH 512) (sha512tName t)) s1

/-- IV_t[i] = be(DG[8i .. 8i+7]), the words IVGEN leaves in DG (41_streaming.md R172). -/
def State.digestIv (s : State) : Vector Word64 8 :=
  Vector.ofFn fun i => BitVec.ofNat 64 (beVal (((s.readDigest 64).drop (8 * i.val)).take 8))

/-- `HASH512T(t, M)` with its IVGEN (41_streaming.md R172). -/
def hash512t (t : Nat) (bytes : List Byte) (s : State) : Result :=
  andThen (ivGen t s) fun s1 =>
    runEvents (message (startExpanded .sha512 s1.digestIv (BitVec.ofNat 32 t)) bytes) s1

/-- The repeated part of RUMINATE: `n` times, the digest just produced is the next message
(41_streaming.md R173). -/
def rehash (start : List PortEvent) : Nat → State → Result
  | 0, s => .next s
  | n + 1, s => andThen (runEvents (message start s.producedDigest) s) (rehash start n)

/-- `RUMINATE(m, n, M)` with its message start: `[INIT m]`, or an "Expanded" start for the INITK variant
(41_streaming.md R173). -/
def ruminateFrom (start : List PortEvent) (n : Nat) (bytes : List Byte) (s : State) : Result :=
  andThen (runEvents (message start bytes) s) (rehash start n)

/-- `RUMINATE(m, n, M)` (41_streaming.md R173). -/
def ruminate (m : Mode) (n : Nat) (bytes : List Byte) (s : State) : Result :=
  ruminateFrom [cmd (.init m)] n bytes s

end Sys2Proof.Machine
end

