-- ==== Sys2Proof/Machine/Platform.lean ====
section
/-! DEFINITION. A platform of N_CORES independent instances, each with its own 4 KiB window at its
CORE_BASE (60_exceptions.md R352, R353; 20_memory.md R60, R61, R75). -/

namespace Sys2Proof.Machine

/-- The instances, in the order of the windows of `config`. They share no mutable state (R353). -/
structure Platform where
  config : PlatformConfig
  cores : List State
  deriving DecidableEq, Repr

/-- The window size in bytes (20_memory.md R60). -/
def windowBytes : Nat := 4096

/-- The word offset an aligned host address has in the window at `base`; `none` outside the window or off
a word boundary, which the port cannot express (20_memory.md R61). -/
def windowOffset (base addr : Nat) : Option WordOffset :=
  if base ≤ addr ∧ addr < base + windowBytes ∧ (addr - base) % 4 = 0 then
    some (BitVec.ofNat 10 ((addr - base) / 4))
  else none

/-- The first instance, counted from `k`, whose window holds the address (log entry 11). -/
def locateFrom : Nat → List Nat → Nat → Option (Nat × WordOffset)
  | _, [], _ => none
  | k, base :: bases, addr =>
    match windowOffset base addr with
    | some off => some (k, off)
    | none => locateFrom (k + 1) bases addr

/-- The instance and word offset of a host address. -/
def Platform.locate (p : Platform) (addr : Nat) : Option (Nat × WordOffset) :=
  locateFrom 0 p.config.bases addr

/-- One event performed by instance `k`; the other instances are not touched (60_exceptions.md R353). A
reset among these events is a reset signal that reaches instance `k` alone; DESIGN CHOICE, log entry 17. -/
def Platform.performAt (p : Platform) (k : Nat) (e : PortEvent) : Option Platform :=
  match p.cores[k]? with
  | none => none
  | some s =>
    match s.perform e with
    | .next t => some { p with cores := p.cores.set k t }
    | .fault _ => none
    | .refused _ => none

/-- A host read of one word at a host address; `none` where no core is reached (what the host's bus does
then is outside the spec, 20_memory.md R61). -/
def Platform.read (p : Platform) (addr : Nat) : Option Platform :=
  match p.locate addr with
  | none => none
  | some (k, off) => p.performAt k (.read off)

/-- A host write of one word at a host address. -/
def Platform.write (p : Platform) (addr : Nat) (v : Word32) : Option Platform :=
  match p.locate addr with
  | none => none
  | some (k, off) => p.performAt k (.write off v)

/-- A reset signal that reaches every instance at once. The spec does not say whether the platform's reset
signal (70_reset_and_hazards.md R371) reaches one instance or all: the model has both moves; DESIGN CHOICE,
log entry 17. -/
def Platform.resetAll (p : Platform) : Platform := { p with cores := p.cores.map State.afterReset }

/-- The platform has as many instances as its configuration says (60_exceptions.md R353), so at least one. -/
abbrev Platform.wf (p : Platform) : Prop := p.cores.length = p.config.nCores

/-- N_CORES instances after reset (70_reset_and_hazards.md R370). -/
def Platform.reset (config : PlatformConfig) : Platform :=
  ⟨config, List.replicate config.nCores State.reset⟩

end Sys2Proof.Machine
end

