-- ==== Sys2Proof/Machine/Checks.lean ====
section
/-! DEFINITION. The state checks of every command as one table (60_exceptions.md R340, R343, R344), and
the architectural cost, the blocks a command compresses (70_reset_and_hazards.md R379). -/

namespace Sys2Proof.Machine

/-- The first of the checks given that fails. -/
def firstFailure : List (Bool × CmdError) → Option CmdError
  | [] => none
  | (true, c) :: _ => some c
  | (false, _) :: rest => firstFailure rest

/-- Why a command is refused in a state, in the order of 60_exceptions.md R343, or `none` if it is
accepted. (A count out of range is refused by decode; log entry 7.) -/
def refusalOf (i : Instr) (s : State) : Option CmdError :=
  match i with
  | .absorb n => firstFailure
      [(decide (4 < n.toNat), .badCount), (s.phase == .unconf, .noMode), (s.bitpend, .bitPending)]
  | .absorbbits n => firstFailure
      [(decide (7 < n.toNat), .badCount), (s.phase == .unconf, .noMode),
        (s.engine != .sha512, .bitMode), (s.bitpend, .bitPending)]
  | .final => firstFailure
      [(s.phase == .unconf, .noMode),
        (decide (s.outbits.toNat < 1 ∨ s.engine.stateBits < s.outbits.toNat), .badOutbits)]
  | .compress | .expand => firstFailure [(s.phase == .unconf, .noMode)]
  | .init _ | .initk _ | .clrerr => none
  | .wadd _ | .cadd _ | .wsub _ | .bsub _ | .cmul _ | .rotl _ | .rotr _ | .shl _ | .shr _ => none
  | .bswap _ | .and _ | .or _ | .xor _ | .not _ => none

/-- How many of the next `n` absorbed bytes complete a block (41_streaming.md R152). -/
def State.blocksCompleted (s : State) (n : Nat) : Nat :=
  (List.range n).countP fun j => (s.totlen + BitVec.ofNat 128 (8 * (j + 1))).toNat % s.engine.blockBits == 0

/-- The number of blocks an accepted command compresses (70_reset_and_hazards.md R379). -/
def blocksOf (i : Instr) (s : State) : Nat :=
  match i with
  | .absorb n => s.blocksCompleted n.toNat
  | .final => s.padBlocks.length
  | .compress => 1
  | .init _ | .initk _ | .clrerr | .absorbbits _ | .expand => 0
  | .wadd _ | .cadd _ | .wsub _ | .bsub _ | .cmul _ | .rotl _ | .rotr _ | .shl _ | .shr _ => 0
  | .bswap _ | .and _ | .or _ | .xor _ | .not _ => 0

/-- The number of blocks a command compresses: none if it is refused (60_exceptions.md R341). -/
def blocksCompressed (i : Instr) (s : State) : Nat :=
  match refusalOf i s with
  | some _ => 0
  | none => blocksOf i s

end Sys2Proof.Machine
end

