-- ==== Sys2Proof/Safety.lean ====
section
/-! DEFINITION. What counts as a good state and a trustworthy result, in the terms claims use: the
invariants at command boundaries (10_state.md R44) and when DG may be trusted
(70_reset_and_hazards.md R375). -/

namespace Sys2Proof.Machine

/-- The invariants that hold at every command boundary (10_state.md R44, clauses (a) to (f)). -/
abbrev State.Boundary (s : State) : Prop :=
  s.phase ≠ .blockReady
  ∧ (s.phase = .unconf → s.totlen = 0 ∧ s.bitpend = false)
  ∧ (s.phase = .empty → s.totlen = 0 ∧ s.bitpend = false)
  ∧ (s.bitpend = true → s.engine = .sha512 ∧ s.totlen.toNat % 8 ≠ 0)
  ∧ (s.bitpend = false → s.totlen.toNat % 8 = 0)
  ∧ (s.err = false → s.errcode = none)

/-- When the host may take DG for the digest of the current message (70_reset_and_hazards.md R375): no
command was refused and FINAL was the last to touch the message. R375 names the two checks, STATUS.ERR "or"
STATUS.PHASE, and does not say how they combine; asking for both is the model's choice; DESIGN CHOICE, log
entry 18. -/
abbrev State.digestTrusted (s : State) : Prop := s.err = false ∧ s.phase = .finalized

/-- Everything a command may change that belongs to the hash: the digest-state machine, the message, the
chaining words, the schedule and the digest (45_word_alu.md R290). -/
abbrev State.sameHash (s t : State) : Prop :=
  t.phase = s.phase ∧ t.mode = s.mode ∧ t.bitpend = s.bitpend ∧ t.custom = s.custom
  ∧ t.outbits = s.outbits ∧ t.totlen = s.totlen ∧ t.h = s.h ∧ t.blk = s.blk ∧ t.dg = s.dg ∧ t.w = s.w

/-- The ALU's registers and flag (45_word_alu.md R290). -/
abbrev State.sameAlu (s t : State) : Prop :=
  t.a = s.a ∧ t.b = s.b ∧ t.c = s.c ∧ t.r = s.r ∧ t.rh = s.rh ∧ t.cf = s.cf

/-- The error record (10_state.md R25). -/
abbrev State.sameError (s t : State) : Prop := t.err = s.err ∧ t.errcode = s.errcode

/-- The host's side: what it has issued, what it has read, and DIN, which no command writes
(10_state.md R31). -/
abbrev State.sameHost (s t : State) : Prop :=
  t.pending = s.pending ∧ t.responses = s.responses ∧ t.din = s.din

end Sys2Proof.Machine
end

