-- ==== Sys2Proof/Certificates/Slice0/Obligations.lean ====
section
/-! DEFINITION. The statements for the provers, each named after what it states and citing the rule of
spec/ it formalises. A command's result is stated with its frame as one equation,
`t = { s with <the fields it may write> := t.<field> }`: every other field of State, and so every other
register, flag, byte of BLK and DG, and the host's side, is unchanged. -/

open Sys2Proof Sys2Proof.Machine

namespace Sys2Proof.Claims

/-- The state after a refusal with code `c`: the error record of 60_exceptions.md R342, written out. -/
def recorded (s : State) (c : CmdError) : Result :=
  .next { s with err := true, errcode := if s.err then s.errcode else some c }

/-- F1 of a command word, as a number (30_encoding.md R91). -/
def f1Of (v : Word32) : Nat := v.toNat / 2 ^ 8 % 2 ^ 4

/-- F2 of a command word, as a number (30_encoding.md R91). -/
def f2Of (v : Word32) : Nat := v.toNat / 2 ^ 12 % 2 ^ 4

/-- RSV of a command word, as a number (30_encoding.md R91). -/
def rsvOf (v : Word32) : Nat := v.toNat / 2 ^ 16

/-- The mode codes of 30_encoding.md R97, row by row; MODE reads the same codes (10_state.md R26). -/
def modeRows : List (Nat × Mode) :=
  [(0, .md4), (1, .md5), (2, .sha0), (3, .sha1), (4, .sha224), (5, .sha256), (6, .sha384), (7, .sha512),
    (8, .sha512_224), (9, .sha512_256)]

/-- The PHASE codes of 10_state.md R24. -/
def phaseNumber : Phase → Nat
  | .unconf => 0
  | .empty => 1
  | .accum => 2
  | .blockReady => 3
  | .finalized => 4

/-- The error codes of 60_exceptions.md R340, as ERRCODE reads them. -/
def errorNumber : Option CmdError → Nat
  | none => 0
  | some .illegalOpcode => 1
  | some .reservedField => 2
  | some .badMode => 3
  | some .badWidth => 4
  | some .badCount => 5
  | some .noMode => 6
  | some .bitMode => 7
  | some .bitPending => 8
  | some .badOutbits => 9

/-- The words of an opcode with a mode in F1, and the errors of the others: the Encoding and Errors of
40_control.md R121, R123, with each of the ten codes of 30_encoding.md R97 giving its own mode. -/
def modeCoded (opc : Nat) (mk : Mode → Instr) : Prop :=
  ∀ v : Word32, v.toNat % 2 ^ 8 = opc →
    if rsvOf v ≠ 0 ∨ f2Of v ≠ 0 then decode v = .error .reservedField
    else if 9 < f1Of v then decode v = .error .badMode
    else ∃ m : Mode, decode v = .ok (mk m) ∧ (f1Of v, m) ∈ modeRows

/-- The one word of an opcode without operands, and the errors of the others: the Encoding and Errors of
40_control.md R124; 41_streaming.md R154; 42_block_engine.md R192, R193. -/
def plainCoded (opc : Nat) (i : Instr) : Prop :=
  ∀ v : Word32, v.toNat % 2 ^ 8 = opc →
    if rsvOf v ≠ 0 ∨ f1Of v ≠ 0 ∨ f2Of v ≠ 0 then decode v = .error .reservedField
    else decode v = .ok i

/-- The words of an opcode with a count in F2, and the errors of the others: the Encoding and Errors of
41_streaming.md R151, R153. -/
def countCoded (opc max : Nat) (mk : BitVec 4 → Instr) : Prop :=
  ∀ v : Word32, v.toNat % 2 ^ 8 = opc →
    if rsvOf v ≠ 0 ∨ f1Of v ≠ 0 then decode v = .error .reservedField
    else if max < f2Of v then decode v = .error .badCount
    else decode v = .ok (mk (BitVec.ofNat 4 (f2Of v)))

/-- The words of an ALU opcode, the width `8 · 2^F1`, and the errors of the others: the Encoding and
Errors of 45_word_alu.md R291 to R304. -/
def widthCoded (opc : Nat) (mk : Width → Instr) : Prop :=
  ∀ v : Word32, v.toNat % 2 ^ 8 = opc →
    if rsvOf v ≠ 0 ∨ f2Of v ≠ 0 then decode v = .error .reservedField
    else if 4 < f1Of v then decode v = .error .badWidth
    else ∃ w : Width, decode v = .ok (mk w) ∧ w.bits = 8 * 2 ^ f1Of v

/-- Bit `p` of a bit string held in bytes, the first bit of a byte its most significant
(41_streaming.md R150). -/
def msgBit (bytes : List Byte) (p : Nat) : Bool := (bytes.getD (p / 8) 0).getLsbD (7 - p % 8)

/-- BLK[j]. -/
def blkByte (s : State) (j : Nat) : Byte := s.blk.toList.getD j 0

/-- DG[j]. -/
def dgByte (s : State) (j : Nat) : Byte := s.dg.toList.getD j 0

/-- W[j]. -/
def wWord (s : State) (j : Nat) : Word64 := s.w.toList.getD j 0

/-- W[j][31:0]. -/
def wLow (s : State) (j : Nat) : Word32 := (wWord s j).setWidth 32

/-- `le(BLK[4j .. 4j+3])`, lane by lane (20_memory.md R78). -/
def leBlockWord (s : State) (j : Nat) : Word32 :=
  blkByte s (4 * j + 3) ++ blkByte s (4 * j + 2) ++ blkByte s (4 * j + 1) ++ blkByte s (4 * j)

/-- `be(BLK[4j .. 4j+3])` (20_memory.md R78). -/
def beBlockWord (s : State) (j : Nat) : Word32 :=
  blkByte s (4 * j) ++ blkByte s (4 * j + 1) ++ blkByte s (4 * j + 2) ++ blkByte s (4 * j + 3)

/-- `be(BLK[8j .. 8j+7])` (20_memory.md R78). -/
def beBlockWord64 (s : State) (j : Nat) : Word64 := beBlockWord s (2 * j) ++ beBlockWord s (2 * j + 1)

/-- The 14 word-ALU commands (30_encoding.md R93). -/
def isAlu : Instr → Bool
  | .wadd _ | .cadd _ | .wsub _ | .bsub _ | .cmul _ | .rotl _ | .rotr _ | .shl _ | .shr _ => true
  | .bswap _ | .and _ | .or _ | .xor _ | .not _ => true
  | .init _ | .initk _ | .clrerr | .absorb _ | .absorbbits _ | .final | .compress | .expand => false

/-- The four commands that write CF (10_state.md R29). -/
def writesCf : Instr → Bool
  | .wadd _ | .cadd _ | .wsub _ | .bsub _ => true
  | .cmul _ | .rotl _ | .rotr _ | .shl _ | .shr _ | .bswap _ | .and _ | .or _ | .xor _ | .not _ => false
  | .init _ | .initk _ | .clrerr | .absorb _ | .absorbbits _ | .final | .compress | .expand => false

/-- What is left of a state when everything no command reads is blanked: the error record, CUSTOM, CF, W,
DG, R, RH and the host's side. -/
def essence (s : State) : State :=
  { s with
    err := false, errcode := none, custom := false, cf := false
    w := Vector.replicate 80 0, dg := Vector.replicate 64 0, r := 0, rh := 0
    pending := [], responses := [] }

/-- A register's values `x` and `y` after one command in two states where it held `x0` and `y0`: the command
wrote the same value in both, or kept it in both. -/
def sameOrKept {α : Type} (x0 y0 x y : α) : Prop := x = y ∨ (x = x0 ∧ y = y0)

/-- SB by mode, as 30_encoding.md R97 lists it. -/
def stateBitsOf : Mode → Nat
  | .md4 | .md5 => 128
  | .sha0 | .sha1 => 160
  | .sha224 | .sha256 => 256
  | .sha384 | .sha512 | .sha512_224 | .sha512_256 => 512

/-- The default OUTBITS by mode, as 30_encoding.md R97 lists it. -/
def outbitsOf : Mode → Nat
  | .md4 | .md5 => 128
  | .sha0 | .sha1 => 160
  | .sha224 => 224
  | .sha256 => 256
  | .sha384 => 384
  | .sha512 => 512
  | .sha512_224 => 224
  | .sha512_256 => 256

/-- The modes of the SHA-512 engine (30_encoding.md R97). -/
def isSha512Mode : Mode → Bool
  | .sha384 | .sha512 | .sha512_224 | .sha512_256 => true
  | .md4 | .md5 | .sha0 | .sha1 | .sha224 | .sha256 => false

/-- The block size in bits by mode (00_scope.md R5). -/
def blockBitsOf (m : Mode) : Nat := if isSha512Mode m then 1024 else 512

/-- Whether a register of the window is read-write (20_memory.md R62). -/
def isReadWrite : PortReg → Bool
  | .outbits | .din | .a _ | .b _ | .c _ | .h _ _ | .blk _ => true
  | .id | .cmd | .status | .bufbits | .totlen _ | .r _ | .rh _ | .dg _ | .w _ _ => false

/-- The primes below a bound. -/
def primesBelow (bound : Nat) : List Nat :=
  (List.range bound).filter fun p => 2 ≤ p && (List.range p).all fun d => d < 2 || p % d ≠ 0

/-- Whether `frac` is the first `bits` bits of the fractional part of the `root`-th root of `p`
(`root` = 2 or 3), in exact arithmetic: some integer part `q` below `p` makes
`(q·2^bits + frac)^root ≤ p·2^(root·bits) < (q·2^bits + frac + 1)^root`. -/
def isRootFraction (root bits p frac : Nat) : Bool :=
  (List.range p).any fun q =>
    decide ((q * 2 ^ bits + frac) ^ root ≤ p * 2 ^ (root * bits))
      && decide (p * 2 ^ (root * bits) < (q * 2 ^ bits + frac + 1) ^ root)

/-- The words IVGEN leaves in DG; none if the procedure stopped. -/
def digestIvAfter (x : Result) : List Word64 :=
  match x with
  | .next t => t.digestIv.toList
  | .fault _ => []
  | .refused _ => []

/-- The first `n` digest bytes as one big-endian number; 0 if the statements stopped. -/
def digestAfter (n : Nat) (x : Result) : Nat :=
  match x with
  | .next t => beVal (t.dg.toList.take n)
  | .fault _ => 0
  | .refused _ => 0

end Sys2Proof.Claims

open Sys2Proof.Claims

/-! ## Encoding -/

/-- Decoding an encoded well-formed command gives it back, every operand at every value
(30_encoding.md R93, R96, R97, R98). -/
def Obligations.DecodeOfEncodeIsTheCommand : Prop :=
  ∀ i : Instr, i.wellFormed = true → decode (encode i) = .ok i

/-- A word the decoder accepts is the encoding of the command it stands for, and that command is
well-formed: each accepted word has one meaning, and no bit of it is ignored. -/
def Obligations.AcceptedWordIsItsEncoding : Prop :=
  ∀ (v : Word32) (i : Instr), decode v = .ok i → i.wellFormed = true ∧ encode i = v

/-- Every one of the 2^32 words decodes as the first failing check of 30_encoding.md R99 says, or is
accepted. -/
def Obligations.DecodeChecksInOrder : Prop :=
  ∀ v : Word32,
    let opc := v.toNat % 2 ^ 8
    let f1 := v.toNat / 2 ^ 8 % 2 ^ 4
    let f2 := v.toNat / 2 ^ 12 % 2 ^ 4
    let rsv := v.toNat / 2 ^ 16
    let isMode := opc = 0x01 ∨ opc = 0x02
    let isPlain := opc = 0x0F ∨ opc = 0x12 ∨ opc = 0x20 ∨ opc = 0x21
    let isWidth := 0x30 ≤ opc ∧ opc ≤ 0x3D
    let accepted := ∃ i, decode v = .ok i ∧ encode i = v
    if ¬(isMode ∨ isPlain ∨ opc = 0x10 ∨ opc = 0x11 ∨ isWidth) then decode v = .error .illegalOpcode
    else if rsv ≠ 0 then decode v = .error .reservedField
    else if isMode then
      if f2 ≠ 0 then decode v = .error .reservedField
      else if 9 < f1 then decode v = .error .badMode
      else accepted
    else if isPlain then
      if f1 ≠ 0 ∨ f2 ≠ 0 then decode v = .error .reservedField else accepted
    else if opc = 0x10 then
      if f1 ≠ 0 then decode v = .error .reservedField
      else if 4 < f2 then decode v = .error .badCount
      else accepted
    else if opc = 0x11 then
      if f1 ≠ 0 then decode v = .error .reservedField
      else if 7 < f2 then decode v = .error .badCount
      else accepted
    else
      if f2 ≠ 0 then decode v = .error .reservedField
      else if 4 < f1 then decode v = .error .badWidth
      else accepted

/-- A few words written out from the encoding tables (30_encoding.md R93, R96, R97, R102). -/
def Obligations.WordsWrittenOutDecode : Prop :=
  decode 0x00000501 = .ok (.init .sha256) ∧ decode 0x00000702 = .ok (.initk .sha512)
    ∧ decode 0x0000000F = .ok .clrerr ∧ decode 0x00003010 = .ok (.absorb 3)
    ∧ decode 0x00003011 = .ok (.absorbbits 3) ∧ decode 0x00000012 = .ok .final
    ∧ decode 0x00000020 = .ok .compress ∧ decode 0x00000021 = .ok .expand
    ∧ decode 0x00000236 = .ok (.rotr .w32) ∧ decode 0x0000043D = .ok (.not .w128)

/-! ## The step and the port -/

/-- The core performs the host's accesses one at a time in the order they were issued; with none pending
nothing happens (20_memory.md R74; the queue itself is the model's, log entry 1). -/
def Obligations.StepPerformsTheOldestAccess : Prop :=
  (∀ s : State, s.pending = [] → step s = .next s)
    ∧ ∀ (s : State) (e : PortEvent) (rest : List PortEvent), s.pending = e :: rest →
        step s = ({ s with pending := rest }).perform e

/-- A step runs the decoded instruction: when the oldest pending access is a write to CMD (offset 0x004)
of a word that decodes to `i`, step is exec of `i` on the state with that access taken from the queue
(10_state.md R22). -/
def Obligations.StepRunsTheDecodedCommand : Prop :=
  ∀ (s : State) (v : Word32) (i : Instr) (rest : List PortEvent),
    s.pending = .write 0x001 v :: rest → decode v = .ok i → step s = exec i { s with pending := rest }

/-- A command word that decode refuses changes the error record and nothing else: ERR is set, and ERRCODE
takes the code only if ERR was 0 (60_exceptions.md R341, R342). -/
def Obligations.RefusedWordOnlyRecordsItsCode : Prop :=
  ∀ (s : State) (v : Word32) (c : CmdError) (rest : List PortEvent),
    s.pending = .write 0x001 v :: rest → decode v = .error c →
      step s = recorded { s with pending := rest } c

/-- A host read answers the register's current value and changes no register (20_memory.md R67): word `k`
of a wide register is its bits [32k+31:32k] (R64), BLK and DG read lane by lane (R65, R66), ID its
constant, CMD 0. That the answer is appended to a log is the model's, log entry 1. -/
def Obligations.ReadReturnsTheRegister : Prop :=
  (∀ (s : State) (off : WordOffset) (rest : List PortEvent), s.pending = .read off :: rest →
    step s = .next { s with pending := rest, responses := s.responses ++ [s.busRead off] })
  ∧ ∀ (s : State) (r : PortReg), s.busRead r.offset =
    match r with
    | .id => 0x53480007
    | .cmd => 0
    | .status => s.statusWord
    | .outbits => s.outbits.setWidth 32
    | .din => s.din
    | .bufbits => BitVec.ofNat 32 (s.totlen.toNat % blockBitsOf s.mode)
    | .totlen k => s.totlen.extractLsb' (32 * k.val) 32
    | .a k => s.a.extractLsb' (32 * k.val) 32
    | .b k => s.b.extractLsb' (32 * k.val) 32
    | .c k => s.c.extractLsb' (32 * k.val) 32
    | .r k => s.r.extractLsb' (32 * k.val) 32
    | .rh k => s.rh.extractLsb' (32 * k.val) 32
    | .h i k => (s.h[i.val]).extractLsb' (32 * k.val) 32
    | .w t k => (s.w[t.val]).extractLsb' (32 * k.val) 32
    | .blk j => blkByte s (4 * j.val + 3) ++ blkByte s (4 * j.val + 2) ++ blkByte s (4 * j.val + 1)
        ++ blkByte s (4 * j.val)
    | .dg j => dgByte s (4 * j.val + 3) ++ dgByte s (4 * j.val + 2) ++ dgByte s (4 * j.val + 1)
        ++ dgByte s (4 * j.val)

/-- Every state has a next state, and every command has one in every state: no access, no command word
and no state stops the core (60_exceptions.md R348, R355). -/
def Obligations.NothingStopsTheCore : Prop :=
  (∀ s : State, ∃ t : State, step s = .next t) ∧ ∀ (i : Instr) (s : State), ∃ t : State, exec i s = .next t

/-- A reset taken between accesses gives the reset state whatever the state was (70_reset_and_hazards.md
R370, R371): PHASE is UNCONF and every one of the 1024 word offsets reads 0 except ID. That the host's
queue and its read log stay is the model's choice, log entry 9. -/
def Obligations.ResetOverwritesAllState : Prop :=
  ∀ (s : State) (rest : List PortEvent), s.pending = .reset :: rest →
    ∃ t, step s = .next t ∧ t = { State.reset with pending := rest, responses := s.responses }
      ∧ t.phase = .unconf ∧ ∀ off : WordOffset, t.busRead off = if off = 0 then 0x53480007 else 0

/-- The register map and its inverse agree: the register at an offset has that byte offset, and a
register is found at its own offset (20_memory.md R62). -/
def Obligations.RegisterMapIsOneToOne : Prop :=
  (∀ r : PortReg, portReg r.offset = some r)
    ∧ ∀ (off : WordOffset) (r : PortReg), portReg off = some r → r.byteOffset = 4 * off.toNat

/-- A write to a read-write register is seen by the next read of it (OUTBITS keeps bits [9:0]) and by no
read of any other offset: it changes only the 32 bits it addresses (20_memory.md R64, R65, R70, R71). -/
def Obligations.WriteChangesOnlyItsWord : Prop :=
  ∀ (s : State) (r : PortReg) (v : Word32), isReadWrite r = true →
    ∃ t, s.busWrite r.offset v = .next t
      ∧ t.busRead r.offset = (if r = .outbits then v &&& 0x3FF else v)
      ∧ ∀ off, off ≠ r.offset → t.busRead off = s.busRead off

/-- A write to a read-only register (other than CMD) or to a reserved offset changes no state
(20_memory.md R68, R69), and a reserved offset reads 0. -/
def Obligations.ReadOnlyAndReservedWritesAreIgnored : Prop :=
  (∀ (s : State) (r : PortReg) (v : Word32), isReadWrite r = false → r ≠ .cmd →
      s.busWrite r.offset v = .next s)
    ∧ ∀ (s : State) (off : WordOffset) (v : Word32), portReg off = none →
        s.busWrite off v = .next s ∧ s.busRead off = 0

/-- The fields of STATUS, bit by bit (10_state.md R23), each with its numbers: PHASE 0, 1, 2 and 4 for UNCONF,
EMPTY, ACCUM and FINALIZED (R24), ERRCODE 1 to 9 (60_exceptions.md R340), MODE the codes of 30_encoding.md
R97. BUFBITS reads TOTLEN mod BB, below BB, and OUTBITS
its 10 bits (20_memory.md R70; 10_state.md R33). -/
def Obligations.StatusAndLengthRegistersRead : Prop :=
  ∀ s : State, let x := s.busRead 0x002
    ((x.extractLsb' 0 3).toNat = phaseNumber s.phase ∧ x.getLsbD 3 = s.err
      ∧ (x.extractLsb' 4 4).toNat = errorNumber s.errcode
      ∧ ((x.extractLsb' 8 4).toNat, s.mode) ∈ modeRows ∧ x.getLsbD 12 = s.bitpend ∧ x.getLsbD 13 = s.custom
      ∧ x.extractLsb' 14 2 = 0 ∧ x.getLsbD 16 = s.cf ∧ x.extractLsb' 17 15 = 0)
    ∧ (s.busRead 0x005).toNat = s.totlen.toNat % blockBitsOf s.mode
    ∧ (s.busRead 0x005).toNat < blockBitsOf s.mode ∧ (s.busRead 0x003).toNat = s.outbits.toNat

/-- Block buffer lanes: a write at 0x200 + 4j puts byte k of the word in BLK[4j+k] and leaves every other
byte of BLK, and everything else, alone; a read gives the same lanes (20_memory.md R65). -/
def Obligations.BlockLanesAreLittleEndian : Prop :=
  ∀ (s : State) (j : Fin 32) (v : Word32),
    (∃ t, s.busWrite (BitVec.ofNat 10 (0x80 + j.val)) v = .next t ∧ t = { s with blk := t.blk }
      ∧ ∀ n, n < 128 →
          blkByte t n = if n / 4 = j.val then v.extractLsb' (8 * (n % 4)) 8 else blkByte s n)
    ∧ s.busRead (BitVec.ofNat 10 (0x80 + j.val))
        = blkByte s (4 * j.val + 3) ++ blkByte s (4 * j.val + 2) ++ blkByte s (4 * j.val + 1)
          ++ blkByte s (4 * j.val)

/-! ## Whole-machine rules -/

/-- The reset state meets the invariants of 10_state.md R44. -/
def Obligations.ResetIsAtABoundary : Prop := State.reset.Boundary

/-- Every step keeps the invariants of 10_state.md R44 (an inference the spec marks as derived): PHASE is
never BLOCKREADY, an unconfigured or empty message has no bits, BITPEND marks exactly the messages that
are no whole number of bytes, in SHA-512 modes only, and ERRCODE is 0 while ERR is. -/
def Obligations.StepKeepsTheBoundaryInvariants : Prop :=
  ∀ s t : State, s.Boundary → step s = .next t → t.Boundary

/-- The phase transition table of 41_streaming.md R162, for every command that decode can give: in UNCONF the
streaming and block commands are refused with code 6, and every refusal leaves PHASE unchanged. -/
def Obligations.PhaseFollowsTheTransitionTable : Prop :=
  ∀ (i : Instr) (s t : State), i.wellFormed = true → exec i s = .next t →
    match i with
    | .init _ | .initk _ => t.phase = .empty
    | .absorb n =>
      (s.phase = .unconf → .next t = recorded s .noMode)
        ∧ t.phase = if s.phase = .unconf ∨ s.bitpend = true ∨ n = 0 then s.phase else .accum
    | .absorbbits n =>
      (s.phase = .unconf → .next t = recorded s .noMode)
        ∧ t.phase = if s.phase = .unconf ∨ isSha512Mode s.mode = false ∨ s.bitpend = true ∨ n = 0
          then s.phase else .accum
    | .final =>
      (s.phase = .unconf → .next t = recorded s .noMode)
        ∧ t.phase = if s.phase = .unconf ∨ s.outbits = 0 ∨ stateBitsOf s.mode < s.outbits.toNat
          then s.phase else .finalized
    | .compress | .expand => (s.phase = .unconf → .next t = recorded s .noMode) ∧ t.phase = s.phase
    | .clrerr => t.phase = s.phase
    | .wadd _ | .cadd _ | .wsub _ | .bsub _ | .cmul _ | .rotl _ | .rotr _ => t.phase = s.phase
    | .shl _ | .shr _ | .bswap _ | .and _ | .or _ | .xor _ | .not _ => t.phase = s.phase

/-- The state checks, in the order of 60_exceptions.md R343, each with the record it leaves and nothing
else changed (R341, R342). -/
def Obligations.StateChecksRefuseInOrder : Prop :=
  ∀ s : State,
    (∀ n : BitVec 4, n.toNat ≤ 4 →
      (s.phase = .unconf → exec (.absorb n) s = recorded s .noMode)
      ∧ (s.phase ≠ .unconf → s.bitpend = true → exec (.absorb n) s = recorded s .bitPending))
    ∧ (∀ n : BitVec 4, n.toNat ≤ 7 →
      (s.phase = .unconf → exec (.absorbbits n) s = recorded s .noMode)
      ∧ (s.phase ≠ .unconf → isSha512Mode s.mode = false →
          exec (.absorbbits n) s = recorded s .bitMode)
      ∧ (s.phase ≠ .unconf → isSha512Mode s.mode = true → s.bitpend = true →
          exec (.absorbbits n) s = recorded s .bitPending))
    ∧ (s.phase = .unconf → exec .final s = recorded s .noMode)
    ∧ (s.phase ≠ .unconf → (s.outbits = 0 ∨ stateBitsOf s.mode < s.outbits.toNat) →
        exec .final s = recorded s .badOutbits)
    ∧ (s.phase = .unconf → exec .compress s = recorded s .noMode)
    ∧ (s.phase = .unconf → exec .expand s = recorded s .noMode)

/-- The error record is sticky: once ERR is 1, a step leaves ERR and ERRCODE as they are unless it is
CLRERR or the reset (60_exceptions.md R342; 10_state.md R25). -/
def Obligations.ErrorRecordIsSticky : Prop :=
  ∀ s t : State, step s = .next t → s.err = true →
    (t.err = true ∧ t.errcode = s.errcode)
      ∨ (∃ rest, s.pending = .write 0x001 0x0000000F :: rest ∧ t.err = false ∧ t.errcode = none)
      ∨ ∃ rest, s.pending = .reset :: rest

/-- DG changes only at a successful FINAL, or at reset (10_state.md R36; 70_reset_and_hazards.md
R375). -/
def Obligations.OnlyFinalWritesTheDigest : Prop :=
  ∀ s t : State, step s = .next t → t.dg ≠ s.dg →
    (∃ rest, s.pending = .write 0x001 0x00000012 :: rest ∧ s.phase ≠ .unconf
        ∧ 1 ≤ s.outbits.toNat ∧ s.outbits.toNat ≤ stateBitsOf s.mode ∧ t.phase = .finalized)
      ∨ ∃ rest, s.pending = .reset :: rest

/-- Who writes what: no command writes DIN, A, B or C or touches the host's side; only WADD, CADD, WSUB
and BSUB write CF; only CMUL writes RH; only INIT writes OUTBITS (10_state.md R29, R30, R31, R39, R40). -/
def Obligations.RegistersHaveTheirWriters : Prop :=
  ∀ (i : Instr) (s t : State), exec i s = .next t →
    t.din = s.din ∧ t.a = s.a ∧ t.b = s.b ∧ t.c = s.c ∧ t.pending = s.pending
      ∧ t.responses = s.responses
      ∧ (writesCf i = false → t.cf = s.cf)
      ∧ ((∀ w, i ≠ .cmul w) → t.rh = s.rh)
      ∧ ((∀ m, i ≠ .init m) → t.outbits = s.outbits)
      ∧ (isAlu i = false → t.r = s.r)

/-- No command reads the error record, CUSTOM, CF, W, DG, R or RH, but for the one rule that ERRCODE keeps
its first code (60_exceptions.md R342, R347; 10_state.md R28, R29, R38): in two states that differ only there,
a command changes the other registers alike, and each of CUSTOM, CF, W, DG, R, RH and ERR it writes with the
same value in both or keeps in both. -/
def Obligations.CommandsReadNoOutputAndNoRecord : Prop :=
  ∀ (i : Instr) (s u t : State), essence s = essence u → exec i s = .next t →
    ∃ v, exec i u = .next v ∧ essence t = essence v
      ∧ sameOrKept s.custom u.custom t.custom v.custom ∧ sameOrKept s.cf u.cf t.cf v.cf
      ∧ sameOrKept s.w u.w t.w v.w ∧ sameOrKept s.dg u.dg t.dg v.dg
      ∧ sameOrKept s.r u.r t.r v.r ∧ sameOrKept s.rh u.rh t.rh v.rh
      ∧ sameOrKept s.err u.err t.err v.err
      ∧ (s.err = u.err → sameOrKept s.errcode u.errcode t.errcode v.errcode)

/-- ALU commands change no hash state, no error record and none of A, B, C, in every phase
(45_word_alu.md R290): of the window only R, RH and STATUS bit 16 can read differently. -/
def Obligations.AluCommandsLeaveTheRestOfTheWindow : Prop :=
  ∀ (i : Instr) (s : State), isAlu i = true →
    ∃ t, exec i s = .next t ∧ s.sameHash t ∧ s.sameHost t ∧ s.sameError t
      ∧ (∀ off, (∀ k, portReg off ≠ some (.r k)) → (∀ k, portReg off ≠ some (.rh k)) →
          portReg off ≠ some .status → t.busRead off = s.busRead off)
      ∧ ∀ b, b ≠ 16 → (t.busRead 0x002).getLsbD b = (s.busRead 0x002).getLsbD b

/-! ## Control commands -/

/-- INIT `m`, its words and its effect, legal in every phase (40_control.md R121): the IV in H[0..K-1] and
0 above, the default OUTBITS, an empty message, BLK zero, PHASE = EMPTY; DG, W, DIN, the error record, CF,
A, B, C, R and RH are not written. -/
def Obligations.InitStartsTheStandardMessage : Prop :=
  modeCoded 0x01 .init ∧
  ∀ (m : Mode) (s : State), ∃ t, exec (.init m) s = .next t
    ∧ t = { s with
        phase := .empty, mode := m, bitpend := false, custom := false, totlen := 0
        h := t.h, blk := t.blk, outbits := t.outbits }
    ∧ (∀ i : Fin 8, t.h[i] = m.iv.getD i.val 0)
    ∧ (∀ j, blkByte t j = 0)
    ∧ t.outbits.toNat = outbitsOf m

/-- INITK `m` (40_control.md R123): as INIT, but H and OUTBITS stay as they are and CUSTOM is 1. -/
def Obligations.InitkKeepsTheHostsValues : Prop :=
  modeCoded 0x02 .initk ∧
  ∀ (m : Mode) (s : State), ∃ t, exec (.initk m) s = .next t
    ∧ t = { s with
        phase := .empty, mode := m, bitpend := false, custom := true, totlen := 0, blk := t.blk }
    ∧ ∀ j, blkByte t j = 0

/-- CLRERR (40_control.md R124): ERR and ERRCODE become 0, and no other state changes. -/
def Obligations.ClrerrClearsTheRecordOnly : Prop :=
  plainCoded 0x0F .clrerr
    ∧ ∀ s : State, exec .clrerr s = .next { s with err := false, errcode := none }

/-- The SHA-2 tables are what the rules say they are: IV-256 and IV-512 the square-root fractions of the
first eight primes, IV-384 those of the next eight, IV-224 the low halves of IV-384 (40_control.md R122
note (b)); K256 and K512 the cube-root fractions of the first 64 and 80 primes (44_sha_engines.md R248,
R253). -/
def Obligations.Sha2TablesAreRootFractions : Prop :=
  let primes := primesBelow 410
  let p := fun i => primes.getD i 0
  primes.length = 80
    ∧ iv256.length = 8 ∧ iv512.length = 8 ∧ iv384.length = 8 ∧ iv224.length = 8
    ∧ sha256Const.length = 64 ∧ sha512Const.length = 80
    ∧ (∀ i : Fin 8, isRootFraction 2 32 (p i.val) (iv256.getD i.val 0).toNat = true
      ∧ isRootFraction 2 64 (p i.val) (iv512.getD i.val 0).toNat = true
      ∧ isRootFraction 2 64 (p (i.val + 8)) (iv384.getD i.val 0).toNat = true
      ∧ (iv224.getD i.val 0).toNat = (iv384.getD i.val 0).toNat % 2 ^ 32)
    ∧ (∀ t : Fin 64, isRootFraction 3 32 (p t.val) (sha256Const.getD t.val 0).toNat = true)
    ∧ ∀ t : Fin 80, isRootFraction 3 64 (p t.val) (sha512Const.getD t.val 0).toNat = true

/-! ## Streaming commands -/

/-- ABSORB `n` and ABSORBBITS `n` with n = 0 change no state at all once their checks pass
(30_encoding.md R98, 41_streaming.md R151, R153). -/
def Obligations.ZeroLengthAbsorbIsANoOp : Prop :=
  ∀ s : State, s.phase ≠ .unconf → s.bitpend = false →
    exec (.absorb 0) s = .next s ∧ (isSha512Mode s.mode = true → exec (.absorbbits 0) s = .next s)

/-- ABSORB `n` (41_streaming.md R151, R152), its words, its refusals in their order, and its effect on a
message of whole bytes (every state a run reaches with BITPEND = 0 has one: StepKeepsTheBoundaryInvariants).
The bytes stand in BLK from byte BUFBITS/8 on, TOTLEN grows by 8n and PHASE is ACCUM; n = 0 changes nothing.
If they fill the block, the full block, the buffered bytes and then the first of the new ones, is compressed
into H and its schedule stands in W; the bytes left over stand at the start of BLK, the consumed ones stay
until overwritten. -/
def Obligations.AbsorbAppendsItsBytes : Prop :=
  countCoded 0x10 4 .absorb ∧ ∀ (n : BitVec 4) (s : State), n.toNat ≤ 4 →
    if s.phase = .unconf then exec (.absorb n) s = recorded s .noMode
    else if s.bitpend = true then exec (.absorb n) s = recorded s .bitPending
    else if n = 0 then exec (.absorb n) s = .next s
    else s.totlen.toNat % 8 = 0 →
      let size := blockBitsOf s.mode / 8
      let p := s.totlen.toNat % blockBitsOf s.mode / 8
      let din := (List.range 4).map fun k => s.din.extractLsb' (8 * k) 8
      let totlen := s.totlen + BitVec.ofNat 128 (8 * n.toNat)
      if p + n.toNat < size then
        ∃ t, exec (.absorb n) s = .next t
          ∧ t = { s with phase := .accum, totlen := totlen, blk := t.blk }
          ∧ ∀ j, j < 128 →
              blkByte t j = if p ≤ j ∧ j < p + n.toNat then din.getD (j - p) 0 else blkByte s j
      else
        let P := s.blk.toList.take p ++ din.take (size - p)
        ∃ t, exec (.absorb n) s = .next t
          ∧ t = { s with
              phase := .accum, totlen := totlen
              h := s.mode.engine.chain s.h P, w := s.mode.engine.schedArray P, blk := t.blk }
          ∧ ∀ j, j < 128 → blkByte t j =
              if p ≤ j ∧ j < size then din.getD (j - p) 0
              else if j < p + n.toNat - size then din.getD (size - p + j) 0
              else blkByte s j

/-- ABSORBBITS `n` (41_streaming.md R153), its words, its refusals in their order, and its effect: the high
`n` bits of DIN[7:0] stand in the next byte of BLK with zeros below them, TOTLEN grows by n, BITPEND is 1
and PHASE is ACCUM; n = 0 changes nothing. -/
def Obligations.AbsorbbitsAppendsThePartialByte : Prop :=
  countCoded 0x11 7 .absorbbits ∧ ∀ (n : BitVec 4) (s : State), n.toNat ≤ 7 →
    if s.phase = .unconf then exec (.absorbbits n) s = recorded s .noMode
    else if isSha512Mode s.mode = false then exec (.absorbbits n) s = recorded s .bitMode
    else if s.bitpend = true then exec (.absorbbits n) s = recorded s .bitPending
    else if n = 0 then exec (.absorbbits n) s = .next s
    else
      let p := s.totlen.toNat % 1024 / 8
      ∃ t, exec (.absorbbits n) s = .next t
        ∧ t = { s with
            phase := .accum, bitpend := true, totlen := s.totlen + BitVec.ofNat 128 n.toNat, blk := t.blk }
        ∧ (∀ j, j < 128 → j ≠ p → blkByte t j = blkByte s j)
        ∧ ∀ k, k < 8 → (blkByte t p).getLsbD k = (decide (8 - n.toNat ≤ k) && s.din.getLsbD k)

/-- FINAL (41_streaming.md R154), its word, its refusals and its effect: with OUTBITS from 1 to SB it
writes DG, W and PHASE and nothing else. DG is the truncated serialization of H run over the padding
blocks, and W holds the schedule of the last of them (70_reset_and_hazards.md R374). -/
def Obligations.FinalDeliversTheDigest : Prop :=
  plainCoded 0x12 .final ∧ ∀ s : State,
    if s.phase = .unconf then exec .final s = recorded s .noMode
    else if s.outbits = 0 ∨ stateBitsOf s.mode < s.outbits.toNat then exec .final s = recorded s .badOutbits
    else
      let e := s.mode.engine
      let blocks := e.pad s.blk.toList s.totlen.toNat
      ∃ t, exec .final s = .next t
        ∧ t = { s with phase := .finalized, dg := t.dg, w := t.w }
        ∧ t.dg = truncDigest (e.ser (blocks.foldl e.chain s.h)) s.outbits.toNat
        ∧ ∃ P, blocks.getLast? = some P ∧ t.w = e.schedArray P

/-- Padding (41_streaming.md R155): one or two blocks, whose bits are the buffered message bits, one 1 bit,
zeros, and the length field; bits of the block buffer past the message are not among them (R156). -/
def Obligations.PaddingIsMessageOneZerosLength : Prop :=
  ∀ (e : Engine) (blk : List Byte) (L : Nat),
    let r := L % e.blockBits
    let padded := (e.pad blk L).flatten
    let body := 8 * padded.length - e.lenBits
    (∀ p, p < body → msgBit padded p = if p < r then msgBit blk p else decide (p = r))
      ∧ padded.drop (padded.length - e.lenBytes) = e.lenField L
      ∧ r + 1 ≤ body
      ∧ (∀ P ∈ e.pad blk L, P.length = e.blockBytes)
      ∧ (e.pad blk L).length = if r + 1 + e.lenBits ≤ e.blockBits then 1 else 2

/-- No fewer blocks would do: the buffered bits, the 1 bit and the length field fit in the padding blocks
and in no smaller number of blocks (41_streaming.md R157, derived there: the least z). -/
def Obligations.PaddingIsTheLeastThatFits : Prop :=
  ∀ (e : Engine) (blk : List Byte) (L : Nat),
    let r := L % e.blockBits
    r + 1 + e.lenBits ≤ (e.pad blk L).length * e.blockBits
      ∧ ∀ k, r + 1 + e.lenBits ≤ k * e.blockBits → (e.pad blk L).length ≤ k

/-- The engines' byte orders (20_memory.md R78; 41_streaming.md R158, R160): the length field, 64 bits
little-endian for MD4 and MD5, 64 bits big-endian for SHA-0, SHA-1 and SHA-256, 128 bits big-endian for
SHA-512; and the digest, byte k of state word i in the same order. -/
def Obligations.LengthAndDigestByteOrders : Prop :=
  (∀ e : Engine, e = .md4 ∨ e = .md5 →
      (∀ L, (e.lenField L).length = 8 ∧ leVal (e.lenField L) = L % 2 ^ 64)
      ∧ ∀ h : Vector Word64 8, (e.ser h).length = 16 ∧ ∀ i : Fin 4, ∀ k : Fin 4,
        (e.ser h).getD (4 * i.val + k.val) 0 = (h[i.val]).extractLsb' (8 * k.val) 8)
  ∧ (∀ e : Engine, e = .sha0 ∨ e = .sha1 →
      (∀ L, (e.lenField L).length = 8 ∧ beVal (e.lenField L) = L % 2 ^ 64)
      ∧ ∀ h : Vector Word64 8, (e.ser h).length = 20 ∧ ∀ i : Fin 5, ∀ k : Fin 4,
        (e.ser h).getD (4 * i.val + k.val) 0 = (h[i.val]).extractLsb' (8 * (3 - k.val)) 8)
  ∧ ((∀ L, (Engine.sha256.lenField L).length = 8 ∧ beVal (Engine.sha256.lenField L) = L % 2 ^ 64)
      ∧ ∀ h : Vector Word64 8, (Engine.sha256.ser h).length = 32 ∧ ∀ i : Fin 8, ∀ k : Fin 4,
        (Engine.sha256.ser h).getD (4 * i.val + k.val) 0 = (h[i.val]).extractLsb' (8 * (3 - k.val)) 8)
  ∧ (∀ L, (Engine.sha512.lenField L).length = 16 ∧ beVal (Engine.sha512.lenField L) = L % 2 ^ 128)
  ∧ ∀ h : Vector Word64 8, (Engine.sha512.ser h).length = 64 ∧ ∀ i : Fin 8, ∀ k : Fin 8,
      (Engine.sha512.ser h).getD (8 * i.val + k.val) 0 = (h[i.val]).extractLsb' (8 * (7 - k.val)) 8

/-- Truncation keeps exactly the first OB bits of the serialized state and puts zeros after them
(41_streaming.md R161). -/
def Obligations.TruncationKeepsTheFirstBits : Prop :=
  ∀ (d : List Byte) (ob p : Nat), p < 512 →
    msgBit (truncDigest d ob).toList p = (decide (p < ob) && msgBit d p)

/-- FINAL is repeatable (41_streaming.md R164, derived there): a second FINAL changes nothing at all. -/
def Obligations.FinalIsRepeatable : Prop :=
  ∀ s t : State, s.phase ≠ .unconf → 1 ≤ s.outbits.toNat → s.outbits.toNat ≤ stateBitsOf s.mode →
    exec .final s = .next t → exec .final t = .next t

/-- Bytes of BLK at or above ceil(BUFBITS/8) reach no digest: FINAL gives the same DG and W whatever they
hold (41_streaming.md R156, R167). -/
def Obligations.StaleBufferBytesReachNoDigest : Prop :=
  ∀ (s : State) (blk' : Vector Byte 128),
    (∀ j, j < (s.bufbits + 7) / 8 → blk'.toList.getD j 0 = blkByte s j) →
    ∀ t u, exec .final s = .next t → exec .final { s with blk := blk' } = .next u →
      u = { t with blk := blk' }

/-- Split independence (41_streaming.md R165): feeding two byte strings one after the other, or their
concatenation, leaves the same state, DIN apart. -/
def Obligations.AbsorbIsSplitIndependent : Prop :=
  ∀ (s : State) (xs ys : List Byte), s.phase ≠ .unconf → s.bitpend = false →
    ∃ t u, runEvents (feed xs ++ feed ys) s = .next t ∧ runEvents (feed (xs ++ ys)) s = .next u
      ∧ t = { u with din := t.din }

/-- The whole-message function (41_streaming.md R168): INIT m, the bytes of M, FINAL leave
`DG = Trunc(Hash_e(IV_m, M, 8·len(M)), default_outbits(m))`, from every state, for every mode and every
message. -/
def Obligations.HashIsTheWholeMessageFunction : Prop :=
  ∀ (m : Mode) (M : List Byte) (s : State),
    ∃ t, runEvents (hashStatements m M) s = .next t
      ∧ t.dg = truncDigest (m.engine.hash m.ivWords M (8 * M.length)) (outbitsOf m)
      ∧ t.phase = .finalized ∧ s.sameError t

/-- Continuing after FINAL (41_streaming.md R163): HASH m1, FEED m2, FINAL leave the digest of m1 || m2. -/
def Obligations.AbsorbAfterFinalContinues : Prop :=
  ∀ (m : Mode) (M1 M2 : List Byte) (s : State),
    ∃ t, runEvents (hashStatements m M1 ++ feed M2 ++ [cmd .final]) s = .next t
      ∧ t.dg = truncDigest (m.engine.hash m.ivWords (M1 ++ M2) (8 * (M1 ++ M2).length)) (outbitsOf m)

/-! ## Block engine -/

/-- COMPRESS and EXPAND (42_block_engine.md R192, R193, R194), their words, their refusal and their effect.
COMPRESS writes H and W only: the compression of BLK[0 .. BB/8 - 1] in H[0..K-1], zero-extended, H[K..7]
kept, and the schedule of that block in W, 0 past NS. EXPAND writes that W only. -/
def Obligations.BlockCommandsRunOneBlock : Prop :=
  plainCoded 0x20 .compress ∧ plainCoded 0x21 .expand ∧ ∀ s : State,
    if s.phase = .unconf then
      exec .compress s = recorded s .noMode ∧ exec .expand s = recorded s .noMode
    else
      let e := s.mode.engine
      let P := s.blk.toList.take (blockBitsOf s.mode / 8)
      (∃ t, exec .compress s = .next t
        ∧ t = { s with h := t.h, w := t.w }
        ∧ (∀ i : Fin 8, t.h[i] = if i.val < e.stateWords then (e.compressWords s.h P).getD i.val 0 else s.h[i])
        ∧ (∀ i, i < 80 → wWord t i = if i < e.steps then (e.sched P).getD i 0 else 0)
        ∧ (e ≠ .sha512 → ∀ i : Fin 8, i.val < e.stateWords → t.h[i].toNat < 2 ^ 32))
      ∧ ∃ t, exec .expand s = .next t
        ∧ t = { s with w := t.w }
        ∧ ∀ i, i < 80 → wWord t i = if i < e.steps then (e.sched P).getD i 0 else 0

/-- A 32-bit engine reads only H[i][31:0] for i < K, and the SHA-512 engine only H[0..7]
(42_block_engine.md R196): chaining words that agree there give the same new words. -/
def Obligations.EngineReadsOnlyItsStateWords : Prop :=
  ∀ (e : Engine) (h g : Vector Word64 8) (P : List Byte), e ≠ .sha512 →
    (∀ i : Fin 8, i.val < e.stateWords → (h[i]).setWidth 32 = (g[i]).setWidth 32) →
    ∀ i : Fin 8, i.val < e.stateWords → (e.chain h P)[i] = (e.chain g P)[i]

/-- EXPAND, MD4 and MD5 (42_block_engine.md R193; 43_md_engines.md R214, R216, R219, R223): W[i] is the
little-endian block word step i reads, by the orders' formulas, and 0 past NS; only W changes. -/
def Obligations.ExpandListsTheMdMessageWords : Prop :=
  ∀ s : State, s.phase ≠ .unconf → s.mode = .md4 ∨ s.mode = .md5 →
    ∃ t, exec .expand s = .next t ∧ t = { s with w := t.w }
      ∧ ∀ i, i < 80 →
          let p := i % 16
          let bitrev := 8 * (p % 2) + 4 * (p / 2 % 2) + 2 * (p / 4 % 2) + p / 8
          let k4 := if i < 16 then p else if i < 32 then 4 * (p % 4) + p / 4 else bitrev
          let k5 := if i < 16 then p else if i < 32 then (1 + 5 * p) % 16
            else if i < 48 then (5 + 3 * p) % 16 else 7 * p % 16
          wWord t i =
            if s.mode = .md4 then (if i < 48 then (leBlockWord s k4).setWidth 64 else 0)
            else (if i < 64 then (leBlockWord s k5).setWidth 64 else 0)

/-- EXPAND, SHA-0 and SHA-1 (42_block_engine.md R193; 44_sha_engines.md R241): the big-endian block words,
then the XOR of the four taps, rotated left by 1 in SHA-1 only. -/
def Obligations.ExpandFollowsTheSha1Recurrence : Prop :=
  ∀ s : State, s.phase ≠ .unconf → s.mode = .sha0 ∨ s.mode = .sha1 →
    ∃ t, exec .expand s = .next t ∧ t = { s with w := t.w }
      ∧ (∀ i, i < 80 → (wWord t i).toNat < 2 ^ 32)
      ∧ (∀ i, i < 16 → wLow t i = beBlockWord s i)
      ∧ ∀ i, 16 ≤ i → i < 80 →
          let x := wLow t (i - 3) ^^^ wLow t (i - 8) ^^^ wLow t (i - 14) ^^^ wLow t (i - 16)
          wLow t i = if s.mode = .sha1 then x.rotateLeft 1 else x

/-- EXPAND, SHA-224 and SHA-256 (42_block_engine.md R193; 44_sha_engines.md R246, R247): the big-endian
block words, then σ1(W[t-2]) + W[t-7] + σ0(W[t-15]) + W[t-16], and 0 from 64 on. -/
def Obligations.ExpandFollowsTheSha256Recurrence : Prop :=
  ∀ s : State, s.phase ≠ .unconf → s.mode = .sha224 ∨ s.mode = .sha256 →
    ∃ t, exec .expand s = .next t ∧ t = { s with w := t.w }
      ∧ (∀ i, i < 80 → (wWord t i).toNat < 2 ^ 32)
      ∧ (∀ i, i < 16 → wLow t i = beBlockWord s i)
      ∧ (∀ i, 64 ≤ i → i < 80 → wWord t i = 0)
      ∧ ∀ i, 16 ≤ i → i < 64 →
          let x := wLow t (i - 2)
          let y := wLow t (i - 15)
          wLow t i = (x.rotateRight 17 ^^^ x.rotateRight 19 ^^^ x >>> 10) + wLow t (i - 7)
            + (y.rotateRight 7 ^^^ y.rotateRight 18 ^^^ y >>> 3) + wLow t (i - 16)

/-- EXPAND in the SHA-512 modes (42_block_engine.md R193; 44_sha_engines.md R251, R252). -/
def Obligations.ExpandFollowsTheSha512Recurrence : Prop :=
  ∀ s : State, s.phase ≠ .unconf → isSha512Mode s.mode = true →
    ∃ t, exec .expand s = .next t ∧ t = { s with w := t.w }
      ∧ (∀ i, i < 16 → wWord t i = beBlockWord64 s i)
      ∧ ∀ i, 16 ≤ i → i < 80 →
          let x := wWord t (i - 2)
          let y := wWord t (i - 15)
          wWord t i = (x.rotateRight 19 ^^^ x.rotateRight 61 ^^^ x >>> 6) + wWord t (i - 7)
            + (y.rotateRight 1 ^^^ y.rotateRight 8 ^^^ y >>> 7) + wWord t (i - 16)

/-- The worked values of 43_md_engines.md R224 and 44_sha_engines.md R256 (derived there): step 0 of the
MD4, MD5, SHA-1, SHA-256 and SHA-512 engines, and each engine's compression of the padded block of "abc"
from its IV. -/
def Obligations.EnginesGiveTheWorkedValues : Prop :=
  let md : MdVars := ⟨0x67452301, 0xefcdab89, 0x98badcfe, 0x10325476⟩
  let sha1 : Sha1Vars := ⟨0x67452301, 0xefcdab89, 0x98badcfe, 0x10325476, 0xc3d2e1f0⟩
  let abcLe : List Byte := [0x61, 0x62, 0x63, 0x80] ++ List.replicate 52 0 ++ [0x18] ++ List.replicate 7 0
  let abcBe : List Byte := [0x61, 0x62, 0x63, 0x80] ++ List.replicate 59 0 ++ [0x18]
  let abcBe128 : List Byte := [0x61, 0x62, 0x63, 0x80] ++ List.replicate 123 0 ++ [0x18]
  md4Step [0x80] md 0 = ⟨0x10325476, 0x000003f8, 0xefcdab89, 0x98badcfe⟩
    ∧ md5Step [0x80] md 0 = ⟨0x10325476, 0xa5202774, 0xefcdab89, 0x98badcfe⟩
    ∧ sha1Step [0x61626380] sha1 0 = ⟨0x0116fc33, 0x67452301, 0x7bf36ae2, 0x98badcfe, 0x10325476⟩
    ∧ (sha2Step sha256BigSigma0 sha256BigSigma1 sha256Const [0x61626380]
        (sha256State Mode.sha256.ivWords) 0).a = 0x5d6aebcd
    ∧ (sha2Step sha256BigSigma0 sha256BigSigma1 sha256Const [0x61626380]
        (sha256State Mode.sha256.ivWords) 0).e = 0xfa2a4622
    ∧ (sha2Step sha512BigSigma0 sha512BigSigma1 sha512Const [0x6162638000000000]
        (sha512State Mode.sha512.ivWords) 0).a = 0xf6afceb8bcfcddf5
    ∧ (sha2Step sha512BigSigma0 sha512BigSigma1 sha512Const [0x6162638000000000]
        (sha512State Mode.sha512.ivWords) 0).e = 0x58cb02347ab51f91
    ∧ Engine.md4.compressWords Mode.md4.ivWords abcLe = [0x7a0148a4, 0x52d821af, 0xe80ac15f, 0x9d72a67a]
    ∧ Engine.md5.compressWords Mode.md5.ivWords abcLe = [0x98500190, 0xb04fd23c, 0x7d3f96d6, 0x727fe128]
    ∧ Engine.sha0.compressWords Mode.sha0.ivWords abcBe
      = [0x0164b8a9, 0x14cd2a5e, 0x74c4f7ff, 0x082c4d97, 0xf1edf880]
    ∧ Engine.sha1.compressWords Mode.sha1.ivWords abcBe
      = [0xa9993e36, 0x4706816a, 0xba3e2571, 0x7850c26c, 0x9cd0d89d]
    ∧ Engine.sha256.compressWords Mode.sha256.ivWords abcBe
      = [0xba7816bf, 0x8f01cfea, 0x414140de, 0x5dae2223, 0xb00361a3, 0x96177a9c, 0xb410ff61, 0xf20015ad]
    ∧ Engine.sha512.compressWords Mode.sha512.ivWords abcBe128
      = [0xddaf35a193617aba, 0xcc417349ae204131, 0x12e6fa4e89a97ea2, 0x0a9eeee64b55d39a,
        0x2192992a274fc1a8, 0x36ba3c23a3feebbd, 0x454d4423643ce80e, 0x2a9ac94fa54ca49f]

/-- The cost measure `blocksCompressed`, the model's choice (log entry 14), counts the blocks a command runs
through the compression, and the counts are those of 70_reset_and_hazards.md R379. In every state there are
that many whole blocks of which the command's H (of FINAL, which keeps H, its DG) is the chain and W the
schedule of the last: at most one for ABSORB, one for an accepted COMPRESS, one or two for an accepted FINAL,
none for a refused command; ABSORBBITS and EXPAND, the ALU commands, INIT, INITK and CLRERR count none, H or W
unchanged. -/
def Obligations.BlocksCompressedPerCommand : Prop :=
  ∀ (i : Instr) (s t : State), exec i s = .next t →
    ∃ blocks : List (List Byte),
      let e := s.mode.engine
      let chained := blocks.foldl e.chain s.h
      let scheduled := blocks.foldl (fun _ P => e.schedArray P) s.w
      blocks.length = blocksCompressed i s ∧ (∀ P ∈ blocks, P.length = blockBitsOf s.mode / 8)
        ∧ match i with
          | .absorb _ => t.h = chained ∧ t.w = scheduled ∧ blocks.length ≤ 1
          | .compress =>
            t.h = chained ∧ t.w = scheduled ∧ blocks.length = if s.phase = .unconf then 0 else 1
          | .final =>
            t.h = s.h ∧ t.w = scheduled
              ∧ if s.phase = .unconf ∨ s.outbits = 0 ∨ stateBitsOf s.mode < s.outbits.toNat
                then blocks.length = 0 ∧ t.dg = s.dg
                else (blocks.length = 1 ∨ blocks.length = 2)
                  ∧ t.dg = truncDigest (e.ser chained) s.outbits.toNat
          | .init _ => blocks.length = 0 ∧ t.w = s.w
          | .expand => blocks.length = 0 ∧ t.h = s.h
          | .initk _ | .clrerr | .absorbbits _ => blocks.length = 0 ∧ t.h = s.h ∧ t.w = s.w
          | .wadd _ | .cadd _ | .wsub _ | .bsub _ | .cmul _ | .rotl _ | .rotr _ | .shl _ | .shr _ =>
            blocks.length = 0 ∧ t.h = s.h ∧ t.w = s.w
          | .bswap _ | .and _ | .or _ | .xor _ | .not _ => blocks.length = 0 ∧ t.h = s.h ∧ t.w = s.w

/-! ## Word ALU -/

/-- WADD.w and CADD.w, their words and their effect (45_word_alu.md R291, R292): `CF·2^w + R = a + b`,
plus C[0] for CADD, with R below 2^w; R and CF only. -/
def Obligations.AddsLeaveTheCarryOut : Prop :=
  widthCoded 0x30 .wadd ∧ widthCoded 0x31 .cadd ∧ ∀ (w : Width) (s : State),
    let sum := s.a.toNat % 2 ^ w.bits + s.b.toNat % 2 ^ w.bits
    (∃ t, exec (.wadd w) s = .next t ∧ t = { s with r := t.r, cf := t.cf }
      ∧ t.r.toNat < 2 ^ w.bits ∧ t.cf.toNat * 2 ^ w.bits + t.r.toNat = sum)
    ∧ ∃ t, exec (.cadd w) s = .next t ∧ t = { s with r := t.r, cf := t.cf }
      ∧ t.r.toNat < 2 ^ w.bits ∧ t.cf.toNat * 2 ^ w.bits + t.r.toNat = sum + s.c.toNat % 2

/-- WSUB.w and BSUB.w, their words and their effect (45_word_alu.md R293, R294): `R = a - b + CF·2^w`,
with C[0] taken away too for BSUB, R below 2^w, and CF the borrow; R and CF only. -/
def Obligations.SubtractsLeaveTheBorrow : Prop :=
  widthCoded 0x32 .wsub ∧ widthCoded 0x33 .bsub ∧ ∀ (w : Width) (s : State),
    let a := s.a.toNat % 2 ^ w.bits
    let b := s.b.toNat % 2 ^ w.bits
    let c0 := s.c.toNat % 2
    (∃ t, exec (.wsub w) s = .next t ∧ t = { s with r := t.r, cf := t.cf }
      ∧ t.r.toNat < 2 ^ w.bits ∧ (t.cf = true ↔ a < b) ∧ t.r.toNat + b = a + t.cf.toNat * 2 ^ w.bits)
    ∧ ∃ t, exec (.bsub w) s = .next t ∧ t = { s with r := t.r, cf := t.cf }
      ∧ t.r.toNat < 2 ^ w.bits ∧ (t.cf = true ↔ a < b + c0)
      ∧ t.r.toNat + b + c0 = a + t.cf.toNat * 2 ^ w.bits

/-- CMUL.w, its words and its effect (45_word_alu.md R295): `RH·2^w + R = a·b + c`, both halves below 2^w;
R and RH only. -/
def Obligations.CmulMultipliesAndAdds : Prop :=
  widthCoded 0x34 .cmul ∧ ∀ (w : Width) (s : State), ∃ t, exec (.cmul w) s = .next t ∧ t = { s with r := t.r, rh := t.rh }
    ∧ t.r.toNat < 2 ^ w.bits ∧ t.rh.toNat < 2 ^ w.bits
    ∧ t.rh.toNat * 2 ^ w.bits + t.r.toNat
        = s.a.toNat % 2 ^ w.bits * (s.b.toNat % 2 ^ w.bits) + s.c.toNat % 2 ^ w.bits

/-- ROTL.w, ROTR.w, SHL.w and SHR.w, their words and their effect (45_word_alu.md R296 to R299), bit by
bit, with the amount n = B[w-1:0] mod w: rotates bring every bit round, shifts fill with zeros, bits of R
at or above w are 0; R only. -/
def Obligations.RotatesAndShiftsMoveBits : Prop :=
  widthCoded 0x35 .rotl ∧ widthCoded 0x36 .rotr ∧ widthCoded 0x37 .shl ∧ widthCoded 0x38 .shr
    ∧ ∀ (w : Width) (s : State), let n := s.b.toNat % 2 ^ w.bits % w.bits
    (∃ t, exec (.rotl w) s = .next t ∧ t = { s with r := t.r }
      ∧ ∀ j, t.r.getLsbD j = (decide (j < w.bits) && s.a.getLsbD ((j + w.bits - n) % w.bits)))
    ∧ (∃ t, exec (.rotr w) s = .next t ∧ t = { s with r := t.r }
      ∧ ∀ j, t.r.getLsbD j = (decide (j < w.bits) && s.a.getLsbD ((j + n) % w.bits)))
    ∧ (∃ t, exec (.shl w) s = .next t ∧ t = { s with r := t.r }
      ∧ ∀ j, t.r.getLsbD j = (decide (n ≤ j ∧ j < w.bits) && s.a.getLsbD (j - n)))
    ∧ ∃ t, exec (.shr w) s = .next t ∧ t = { s with r := t.r }
      ∧ ∀ j, t.r.getLsbD j = (decide (j + n < w.bits) && s.a.getLsbD (j + n))

/-- BSWAP.w, AND.w, OR.w, XOR.w and NOT.w, their words and their effect (45_word_alu.md R300 to R304), bit
by bit: BSWAP gives
result[8i+7:8i] = a[8(w/8-1-i)+7 : 8(w/8-1-i)]; bits of R at or above w are 0; R only. -/
def Obligations.BswapAndLogicWorkBitByBit : Prop :=
  widthCoded 0x39 .bswap ∧ widthCoded 0x3A .and ∧ widthCoded 0x3B .or ∧ widthCoded 0x3C .xor
    ∧ widthCoded 0x3D .not ∧ ∀ (w : Width) (s : State),
    (∃ t, exec (.bswap w) s = .next t ∧ t = { s with r := t.r }
      ∧ ∀ j, t.r.getLsbD j =
          (decide (j < w.bits) && s.a.getLsbD (8 * (w.bits / 8 - 1 - j / 8) + j % 8)))
    ∧ (∃ t, exec (.and w) s = .next t ∧ t = { s with r := t.r }
      ∧ ∀ j, t.r.getLsbD j = (decide (j < w.bits) && (s.a.getLsbD j && s.b.getLsbD j)))
    ∧ (∃ t, exec (.or w) s = .next t ∧ t = { s with r := t.r }
      ∧ ∀ j, t.r.getLsbD j = (decide (j < w.bits) && (s.a.getLsbD j || s.b.getLsbD j)))
    ∧ (∃ t, exec (.xor w) s = .next t ∧ t = { s with r := t.r }
      ∧ ∀ j, t.r.getLsbD j = (decide (j < w.bits) && (s.a.getLsbD j ^^ s.b.getLsbD j)))
    ∧ ∃ t, exec (.not w) s = .next t ∧ t = { s with r := t.r }
      ∧ ∀ j, t.r.getLsbD j = (decide (j < w.bits) && !s.a.getLsbD j)

/-- Laws of 45_word_alu.md R305 (derived there): WADD then WSUB of the same b gives back a; BSWAP twice
gives back a; ROTR undoes ROTL; CADD and BSUB with C[0] = 0 are WADD and WSUB; NOT is XOR with 2^w - 1. -/
def Obligations.AluLawsHold : Prop :=
  ∀ (w : Width) (s : State),
    (∀ t u, exec (.wadd w) s = .next t → exec (.wsub w) { t with a := t.r } = .next u →
      u.r.toNat = s.a.toNat % 2 ^ w.bits)
    ∧ (∀ t u, exec (.bswap w) s = .next t → exec (.bswap w) { t with a := t.r } = .next u →
      u.r.toNat = s.a.toNat % 2 ^ w.bits)
    ∧ (∀ t u, exec (.rotl w) s = .next t → exec (.rotr w) { t with a := t.r } = .next u →
      u.r.toNat = s.a.toNat % 2 ^ w.bits)
    ∧ (s.c.toNat % 2 = 0 → exec (.cadd w) s = exec (.wadd w) s ∧ exec (.bsub w) s = exec (.wsub w) s)
    ∧ ∀ t u, exec (.not w) s = .next t →
        exec (.xor w) { s with b := BitVec.ofNat 128 (2 ^ w.bits - 1) } = .next u → u.r = t.r

/-! ## Host procedures and the platform -/

/-- `TOBE.w` is the byte swap and `TOLE.w` the identity on the low w bits (45_word_alu.md R306;
30_encoding.md R103). -/
def Obligations.ConversionsFollowTheNativeOrder : Prop :=
  ∀ (w : Width) (s : State),
    runEvents (toBe w) s = exec (.bswap w) s
      ∧ ∃ t, runEvents (toLe w) s = .next t ∧ t.r.toNat = s.a.toNat % 2 ^ w.bits
        ∧ t = { s with r := t.r, b := 0 }

/-- Reading the digest (41_streaming.md R170): a request for `n` bytes gives the first min(n, 64) bytes of
DG, then zeros. -/
def Obligations.DigestReadsStayInTheDigest : Prop :=
  ∀ (s : State) (n : Nat),
    (s.readDigest n).length = n ∧ ∀ j, j < n → (s.readDigest n).getD j 0 = s.dg.toList.getD j 0

/-- RUMINATE with n = 0 is HASH, and with n + 1 it re-hashes what n rounds left in DG
(41_streaming.md R173). -/
def Obligations.RuminateRehashesTheDigest : Prop :=
  ∀ (m : Mode) (n : Nat) (M : List Byte) (s : State),
    ruminate m 0 M s = runEvents (hashStatements m M) s
      ∧ ∃ t u, ruminate m n M s = .next t ∧ ruminate m (n + 1) M s = .next u
        ∧ runEvents (hashStatements m (t.dg.toList.take ((t.outbits.toNat + 7) / 8))) t = .next u

/-- The six digests of the source (95_test_vectors.md section 1.1), from reset through the port; SHA-0 of
"abc" (44_sha_engines.md R256 (c)), which the source has no digest for; and IVGEN reproduces the IVs of
SHA-512/224 and SHA-512/256 (41_streaming.md R172; 40_control.md R122 note (c)). -/
def Obligations.SourceDigestsAndIvsReproduce : Prop :=
  digestAfter 16 (runEvents (hashStatements .md4 []) State.reset) = 0x31d6cfe0d16ae931b73c59d7e0c089c0
    ∧ digestAfter 16 (runEvents (hashStatements .md4 [0x41]) State.reset)
      = 0xd5ef20eeb3f75679f86cf57f93ed0ffe
    ∧ digestAfter 16 (runEvents (hashStatements .md5 []) State.reset) = 0xd41d8cd98f00b204e9800998ecf8427e
    ∧ digestAfter 20 (runEvents (hashStatements .sha1 []) State.reset)
      = 0xda39a3ee5e6b4b0d3255bfef95601890afd80709
    ∧ digestAfter 32 (runEvents (hashStatements .sha256 []) State.reset)
      = 0xe3b0c44298fc1c149afbf4c8996fb92427ae41e4649b934ca495991b7852b855
    ∧ digestAfter 64 (runEvents (hashStatements .sha512 []) State.reset)
      = 0xcf83e1357eefb8bdf1542850d66d8007d620e4050b5715dc83f4a921d36ce9ce47d0d13c5d85f2b0ff8318d2877eec2f63b931bd47417a81a538327af927da3e
    ∧ digestAfter 20 (runEvents (hashStatements .sha0 [0x61, 0x62, 0x63]) State.reset)
      = 0x0164b8a914cd2a5e74c4f7ff082c4d97f1edf880
    ∧ digestIvAfter (ivGen 224 State.reset) = iv512_224
    ∧ digestIvAfter (ivGen 256 State.reset) = iv512_256

/-- Instances never affect each other (60_exceptions.md R353): an event at instance k changes no other
instance, and what it makes of instance k does not depend on the others. -/
def Obligations.InstancesAreIndependent : Prop :=
  ∀ (p q : Platform) (k : Nat) (e : PortEvent), p.performAt k e = some q →
    q.config = p.config ∧ (∀ j, j ≠ k → q.cores[j]? = p.cores[j]?)
      ∧ ∃ s t, p.cores[k]? = some s ∧ s.perform e = .next t ∧ q.cores[k]? = some t
end

