-- ==== Sys2Proof/Laws/Bytes.lean ====
section
/-! SUPPORT. Byte orders and masks: one lemma for what each shared byte operation does. -/

namespace Sys2Proof

@[simp] theorem serLe_length (n v : Nat) : (serLe n v).length = n := by
  induction n generalizing v with
  | zero => rfl
  | succ n ih => simp [serLe, ih]

@[simp] theorem serBe_length (n v : Nat) : (serBe n v).length = n := by simp [serBe]

@[simp] theorem Engine.serialize_length (e : Engine) (n v : Nat) : (e.serialize n v).length = n := by
  unfold Engine.serialize; split <;> simp

@[simp] theorem Engine.lenField_length (e : Engine) (L : Nat) : (e.lenField L).length = e.lenBytes := by
  simp [Engine.lenField]

theorem leVal_lt (xs : List Byte) : leVal xs < 256 ^ xs.length := by
  induction xs with
  | nil => simp [leVal]
  | cons x xs ih =>
    have := x.isLt
    simp only [leVal, List.length_cons, pow_succ]
    omega

/-- Serializing and reading back gives the number modulo what fits. -/
@[simp] theorem leVal_serLe (n v : Nat) : leVal (serLe n v) = v % 256 ^ n := by
  induction n generalizing v with
  | zero => simp [serLe, leVal, Nat.mod_one]
  | succ n ih =>
    rw [serLe, leVal, ih, BitVec.toNat_ofNat, pow_succ' 256 n, show 2 ^ 8 = 256 from rfl]
    exact Nat.mod_mul.symm

@[simp] theorem beVal_serBe (n v : Nat) : beVal (serBe n v) = v % 256 ^ n := by
  simp [beVal, serBe]

/-- Byte `k` of a little-endian serialization. -/
theorem serLe_getD (n v k : Nat) :
    (serLe n v).getD k 0 = if k < n then BitVec.ofNat 8 (v / 256 ^ k) else 0 := by
  induction n generalizing v k with
  | zero => simp [serLe]
  | succ n ih =>
    cases k with
    | zero => simp [serLe]
    | succ k =>
      rw [serLe, List.getD_cons_succ, ih, Nat.div_div_eq_div_mul, pow_succ']
      simp only [Nat.add_lt_add_iff_right]

/-- Bit `k` of the mask that keeps a byte's high `n` bits. -/
theorem highBitsMask_getLsbD (n k : Nat) (hn : n ≤ 8) (hk : k < 8) :
    (highBitsMask n).getLsbD k = decide (8 - n ≤ k) := by
  interval_cases n <;> interval_cases k <;> decide

@[simp] theorem chunks_length (k n : Nat) (bytes : List Byte) : (chunks k n bytes).length = n := by
  induction n generalizing bytes with
  | zero => rfl
  | succ n ih => simp [chunks, ih]

/-- Word `j` of a byte string cut into words. -/
theorem chunks_getElem (k n : Nat) (bytes : List Byte) (j : Nat) (h : j < (chunks k n bytes).length) :
    (chunks k n bytes)[j] = (bytes.drop (k * j)).take k := by
  induction n generalizing bytes j with
  | zero => simp [chunks] at h
  | succ n ih =>
    cases j with
    | zero => simp [chunks]
    | succ j => simp [chunks, ih, mul_add, add_comm]

@[simp] theorem padHead_length (n : Nat) (blk : List Byte) (r : Nat) : (padHead n blk r).length = n := by
  simp [padHead]

theorem withLenField_length (P lf : List Byte) (h : lf.length ≤ P.length) :
    (withLenField P lf).length = P.length := by
  simp [withLenField]; omega

/-- Byte `k` of word `k / size` of a digest. -/
theorem flatMap_getD_of_length {α : Type} (f : α → List Byte) (k : Nat) (hk : ∀ x, (f x).length = k)
    (xs : List α) (i j : Nat) (hi : i < xs.length) (hj : j < k) :
    (xs.flatMap f).getD (k * i + j) 0 = (f xs[i]).getD j 0 := by
  induction xs generalizing i with
  | nil => simp at hi
  | cons x xs ih =>
    cases i with
    | zero =>
      simp only [List.flatMap_cons, mul_zero, zero_add, List.getD_eq_getElem?_getD]
      rw [List.getElem?_append_left (by rw [hk]; exact hj)]
      rfl
    | succ i =>
      simp only [List.flatMap_cons, List.getD_eq_getElem?_getD]
      rw [List.getElem?_append_right (by rw [hk]; nlinarith), hk]
      have := ih i (by simpa using hi)
      simp only [List.getD_eq_getElem?_getD] at this
      rw [show k * (i + 1) + j - k = k * i + j by rw [mul_add, mul_one]; omega]
      exact this

end Sys2Proof
end

