-- ==== Sys2Proof/Laws/Blocks.lean ====
section
/-! SUPPORT. Lengths, words and recurrences of the block engine. -/

namespace Sys2Proof

@[simp] theorem Engine.words32_length (e : Engine) (P : List Byte) : (e.words32 P).length = 16 := by
  simp [Engine.words32]

@[simp] theorem Engine.words64_length (e : Engine) (P : List Byte) : (e.words64 P).length = 16 := by
  simp [Engine.words64]

theorem extendSched_length {n : Nat} (next : List (BitVec n) → BitVec n) (k : Nat) (ws : List (BitVec n)) :
    (extendSched next k ws).length = ws.length + k := by
  induction k generalizing ws with
  | zero => rfl
  | succ k ih => simp [extendSched, ih]; omega

/-- A schedule keeps the words it starts from. -/
theorem extendSched_getElem?_of_lt {n : Nat} (next : List (BitVec n) → BitVec n) (k : Nat)
    (ws : List (BitVec n)) (i : Nat) (hi : i < ws.length) : (extendSched next k ws)[i]? = ws[i]? := by
  induction k generalizing ws with
  | zero => rfl
  | succ k ih =>
    rw [extendSched, ih _ (by simp; omega), List.getElem?_append_left hi]

/-- Its first words are the words it starts from. -/
theorem extendSched_take {n : Nat} (next : List (BitVec n) → BitVec n) (k : Nat) (ws : List (BitVec n)) :
    (extendSched next k ws).take ws.length = ws := by
  induction k generalizing ws with
  | zero => simp [extendSched]
  | succ k ih =>
    have h := ih (ws ++ [next ws])
    rw [extendSched]
    have := congrArg (List.take ws.length) h
    simpa [List.take_take] using this

/-- Every later word is the next word of the words before it. -/
theorem extendSched_getElem? {n : Nat} (next : List (BitVec n) → BitVec n) (k : Nat)
    (ws : List (BitVec n)) (i : Nat) (h1 : ws.length ≤ i) (h2 : i < ws.length + k) :
    (extendSched next k ws)[i]? = some (next ((extendSched next k ws).take i)) := by
  induction k generalizing ws with
  | zero => omega
  | succ k ih =>
    rw [extendSched]
    by_cases hi : i = ws.length
    · subst hi
      rw [extendSched_getElem?_of_lt _ _ _ _ (by simp)]
      have := congrArg (List.take ws.length) (extendSched_take next k (ws ++ [next ws]))
      simp only [List.take_take, List.length_append, List.length_cons, List.length_nil] at this
      rw [Nat.min_eq_left (by omega)] at this
      rw [this]
      simp
    · exact ih _ (by simp; omega) (by simp; omega)

/-- The word `j` back from the end of the first `i` words. -/
theorem schedBack_take {n : Nat} (ws : List (BitVec n)) (i j : Nat) (hi : i ≤ ws.length) (hj : 1 ≤ j)
    (hji : j ≤ i) : schedBack (ws.take i) j = ws.getD (i - j) 0 := by
  simp only [schedBack, List.length_take, Nat.min_eq_left hi, List.getD_eq_getElem?_getD]
  rw [List.getElem?_take_of_lt (by omega)]

@[simp] theorem zext64_length {n : Nat} (ws : List (BitVec n)) : (zext64 ws).length = ws.length := by
  simp [zext64]

/-- The schedule has NS words (42_block_engine.md R191). -/
@[simp] theorem Engine.sched_length (e : Engine) (P : List Byte) : (e.sched P).length = e.steps := by
  cases e <;>
    simp [Engine.sched, Engine.steps, schedMd4, schedMd5, schedSha0, schedSha1, schedSha256, schedSha512,
      extendSched_length]

/-- The compression gives K words (42_block_engine.md R190). -/
@[simp] theorem Engine.compressWords_length (e : Engine) (h : Vector Word64 8) (P : List Byte) :
    (e.compressWords h P).length = e.stateWords := by
  cases e <;>
    simp [Engine.compressWords, Engine.stateWords, MdVars.toList, Sha1Vars.toList, Sha2Vars.toList]

/-- Chaining word `i` after a block (42_block_engine.md R194). -/
theorem Engine.chain_getElem (e : Engine) (h : Vector Word64 8) (P : List Byte) (i : Nat) (hi : i < 8) :
    (e.chain h P)[i] = if i < e.stateWords then (e.compressWords h P).getD i 0 else h[i] := by
  simp only [Engine.chain, Vector.getElem_ofFn]
  split
  · rename_i hk
    simp [List.getD_eq_getElem?_getD, hk]
  · rename_i hk
    rw [List.getD_eq_default _ _ (by simp; omega)]; rfl

/-- Schedule entry `t` after a block, 0 past NS (42_block_engine.md R194). -/
theorem Engine.schedArray_getElem (e : Engine) (P : List Byte) (t : Nat) (ht : t < 80) :
    (e.schedArray P)[t] = if t < e.steps then (e.sched P).getD t 0 else 0 := by
  simp only [Engine.schedArray, Vector.getElem_ofFn]
  split
  · rfl
  · rw [List.getD_eq_default _ _ (by simp; omega)]

end Sys2Proof
end

