-- ==== Sys2Proof/Laws/State.lean ====
section
/-! SUPPORT. One lemma per field per update of State, each true by rfl (the ID's at reset by its one
value), so that no proof unfolds a record update. -/

namespace Sys2Proof

/-- The ID register reads its constant (10_state.md R21). -/
@[simp] theorem IdReg.val_eq (x : IdReg) : x.val = idValue := x.property

/-- It holds one value only (70_reset_and_hazards.md R370). -/
theorem IdReg.eq (x y : IdReg) : x = y := Subtype.ext (x.property.trans y.property.symm)

namespace Machine

variable (s : State)

/-! ### recordError -/

@[simp] theorem State.recordError_id (x : CmdError) : (s.recordError x).id = s.id := rfl
@[simp] theorem State.recordError_phase (x : CmdError) : (s.recordError x).phase = s.phase := rfl
@[simp] theorem State.recordError_err (x : CmdError) : (s.recordError x).err = true := rfl
@[simp] theorem State.recordError_errcode (x : CmdError) :
    (s.recordError x).errcode = if s.err then s.errcode else some x := rfl
@[simp] theorem State.recordError_mode (x : CmdError) : (s.recordError x).mode = s.mode := rfl
@[simp] theorem State.recordError_bitpend (x : CmdError) :
    (s.recordError x).bitpend = s.bitpend := rfl
@[simp] theorem State.recordError_custom (x : CmdError) : (s.recordError x).custom = s.custom := rfl
@[simp] theorem State.recordError_cf (x : CmdError) : (s.recordError x).cf = s.cf := rfl
@[simp] theorem State.recordError_outbits (x : CmdError) :
    (s.recordError x).outbits = s.outbits := rfl
@[simp] theorem State.recordError_din (x : CmdError) : (s.recordError x).din = s.din := rfl
@[simp] theorem State.recordError_totlen (x : CmdError) : (s.recordError x).totlen = s.totlen := rfl
@[simp] theorem State.recordError_h (x : CmdError) : (s.recordError x).h = s.h := rfl
@[simp] theorem State.recordError_blk (x : CmdError) : (s.recordError x).blk = s.blk := rfl
@[simp] theorem State.recordError_dg (x : CmdError) : (s.recordError x).dg = s.dg := rfl
@[simp] theorem State.recordError_w (x : CmdError) : (s.recordError x).w = s.w := rfl
@[simp] theorem State.recordError_a (x : CmdError) : (s.recordError x).a = s.a := rfl
@[simp] theorem State.recordError_b (x : CmdError) : (s.recordError x).b = s.b := rfl
@[simp] theorem State.recordError_c (x : CmdError) : (s.recordError x).c = s.c := rfl
@[simp] theorem State.recordError_r (x : CmdError) : (s.recordError x).r = s.r := rfl
@[simp] theorem State.recordError_rh (x : CmdError) : (s.recordError x).rh = s.rh := rfl
@[simp] theorem State.recordError_pending (x : CmdError) :
    (s.recordError x).pending = s.pending := rfl
@[simp] theorem State.recordError_responses (x : CmdError) :
    (s.recordError x).responses = s.responses := rfl
@[simp] theorem State.recordError_engine (x : CmdError) : (s.recordError x).engine = s.engine := rfl

/-! ### clearError -/

@[simp] theorem State.clearError_id : (s.clearError).id = s.id := rfl
@[simp] theorem State.clearError_phase : (s.clearError).phase = s.phase := rfl
@[simp] theorem State.clearError_err : (s.clearError).err = false := rfl
@[simp] theorem State.clearError_errcode : (s.clearError).errcode = none := rfl
@[simp] theorem State.clearError_mode : (s.clearError).mode = s.mode := rfl
@[simp] theorem State.clearError_bitpend : (s.clearError).bitpend = s.bitpend := rfl
@[simp] theorem State.clearError_custom : (s.clearError).custom = s.custom := rfl
@[simp] theorem State.clearError_cf : (s.clearError).cf = s.cf := rfl
@[simp] theorem State.clearError_outbits : (s.clearError).outbits = s.outbits := rfl
@[simp] theorem State.clearError_din : (s.clearError).din = s.din := rfl
@[simp] theorem State.clearError_totlen : (s.clearError).totlen = s.totlen := rfl
@[simp] theorem State.clearError_h : (s.clearError).h = s.h := rfl
@[simp] theorem State.clearError_blk : (s.clearError).blk = s.blk := rfl
@[simp] theorem State.clearError_dg : (s.clearError).dg = s.dg := rfl
@[simp] theorem State.clearError_w : (s.clearError).w = s.w := rfl
@[simp] theorem State.clearError_a : (s.clearError).a = s.a := rfl
@[simp] theorem State.clearError_b : (s.clearError).b = s.b := rfl
@[simp] theorem State.clearError_c : (s.clearError).c = s.c := rfl
@[simp] theorem State.clearError_r : (s.clearError).r = s.r := rfl
@[simp] theorem State.clearError_rh : (s.clearError).rh = s.rh := rfl
@[simp] theorem State.clearError_pending : (s.clearError).pending = s.pending := rfl
@[simp] theorem State.clearError_responses : (s.clearError).responses = s.responses := rfl
@[simp] theorem State.clearError_engine : (s.clearError).engine = s.engine := rfl

/-! ### startMessage -/

@[simp] theorem State.startMessage_id (m : Mode) (f : Bool) : (s.startMessage m f).id = s.id := rfl
@[simp] theorem State.startMessage_phase (m : Mode) (f : Bool) :
    (s.startMessage m f).phase = .empty := rfl
@[simp] theorem State.startMessage_err (m : Mode) (f : Bool) :
    (s.startMessage m f).err = s.err := rfl
@[simp] theorem State.startMessage_errcode (m : Mode) (f : Bool) :
    (s.startMessage m f).errcode = s.errcode := rfl
@[simp] theorem State.startMessage_mode (m : Mode) (f : Bool) : (s.startMessage m f).mode = m := rfl
@[simp] theorem State.startMessage_bitpend (m : Mode) (f : Bool) :
    (s.startMessage m f).bitpend = false := rfl
@[simp] theorem State.startMessage_custom (m : Mode) (f : Bool) :
    (s.startMessage m f).custom = f := rfl
@[simp] theorem State.startMessage_cf (m : Mode) (f : Bool) : (s.startMessage m f).cf = s.cf := rfl
@[simp] theorem State.startMessage_outbits (m : Mode) (f : Bool) :
    (s.startMessage m f).outbits = s.outbits := rfl
@[simp] theorem State.startMessage_din (m : Mode) (f : Bool) :
    (s.startMessage m f).din = s.din := rfl
@[simp] theorem State.startMessage_totlen (m : Mode) (f : Bool) :
    (s.startMessage m f).totlen = 0 := rfl
@[simp] theorem State.startMessage_h (m : Mode) (f : Bool) : (s.startMessage m f).h = s.h := rfl
@[simp] theorem State.startMessage_blk (m : Mode) (f : Bool) :
    (s.startMessage m f).blk = Vector.replicate 128 0 := rfl
@[simp] theorem State.startMessage_dg (m : Mode) (f : Bool) : (s.startMessage m f).dg = s.dg := rfl
@[simp] theorem State.startMessage_w (m : Mode) (f : Bool) : (s.startMessage m f).w = s.w := rfl
@[simp] theorem State.startMessage_a (m : Mode) (f : Bool) : (s.startMessage m f).a = s.a := rfl
@[simp] theorem State.startMessage_b (m : Mode) (f : Bool) : (s.startMessage m f).b = s.b := rfl
@[simp] theorem State.startMessage_c (m : Mode) (f : Bool) : (s.startMessage m f).c = s.c := rfl
@[simp] theorem State.startMessage_r (m : Mode) (f : Bool) : (s.startMessage m f).r = s.r := rfl
@[simp] theorem State.startMessage_rh (m : Mode) (f : Bool) : (s.startMessage m f).rh = s.rh := rfl
@[simp] theorem State.startMessage_pending (m : Mode) (f : Bool) :
    (s.startMessage m f).pending = s.pending := rfl
@[simp] theorem State.startMessage_responses (m : Mode) (f : Bool) :
    (s.startMessage m f).responses = s.responses := rfl
@[simp] theorem State.startMessage_engine (m : Mode) (f : Bool) : (s.startMessage m f).engine = m.engine := rfl

/-! ### withR -/

@[simp] theorem State.withR_id (v : Nat) : (s.withR v).id = s.id := rfl
@[simp] theorem State.withR_phase (v : Nat) : (s.withR v).phase = s.phase := rfl
@[simp] theorem State.withR_err (v : Nat) : (s.withR v).err = s.err := rfl
@[simp] theorem State.withR_errcode (v : Nat) : (s.withR v).errcode = s.errcode := rfl
@[simp] theorem State.withR_mode (v : Nat) : (s.withR v).mode = s.mode := rfl
@[simp] theorem State.withR_bitpend (v : Nat) : (s.withR v).bitpend = s.bitpend := rfl
@[simp] theorem State.withR_custom (v : Nat) : (s.withR v).custom = s.custom := rfl
@[simp] theorem State.withR_cf (v : Nat) : (s.withR v).cf = s.cf := rfl
@[simp] theorem State.withR_outbits (v : Nat) : (s.withR v).outbits = s.outbits := rfl
@[simp] theorem State.withR_din (v : Nat) : (s.withR v).din = s.din := rfl
@[simp] theorem State.withR_totlen (v : Nat) : (s.withR v).totlen = s.totlen := rfl
@[simp] theorem State.withR_h (v : Nat) : (s.withR v).h = s.h := rfl
@[simp] theorem State.withR_blk (v : Nat) : (s.withR v).blk = s.blk := rfl
@[simp] theorem State.withR_dg (v : Nat) : (s.withR v).dg = s.dg := rfl
@[simp] theorem State.withR_w (v : Nat) : (s.withR v).w = s.w := rfl
@[simp] theorem State.withR_a (v : Nat) : (s.withR v).a = s.a := rfl
@[simp] theorem State.withR_b (v : Nat) : (s.withR v).b = s.b := rfl
@[simp] theorem State.withR_c (v : Nat) : (s.withR v).c = s.c := rfl
@[simp] theorem State.withR_r (v : Nat) : (s.withR v).r = BitVec.ofNat 128 v := rfl
@[simp] theorem State.withR_rh (v : Nat) : (s.withR v).rh = s.rh := rfl
@[simp] theorem State.withR_pending (v : Nat) : (s.withR v).pending = s.pending := rfl
@[simp] theorem State.withR_responses (v : Nat) : (s.withR v).responses = s.responses := rfl
@[simp] theorem State.withR_engine (v : Nat) : (s.withR v).engine = s.engine := rfl

/-! ### withRH -/

@[simp] theorem State.withRH_id (v : Nat) : (s.withRH v).id = s.id := rfl
@[simp] theorem State.withRH_phase (v : Nat) : (s.withRH v).phase = s.phase := rfl
@[simp] theorem State.withRH_err (v : Nat) : (s.withRH v).err = s.err := rfl
@[simp] theorem State.withRH_errcode (v : Nat) : (s.withRH v).errcode = s.errcode := rfl
@[simp] theorem State.withRH_mode (v : Nat) : (s.withRH v).mode = s.mode := rfl
@[simp] theorem State.withRH_bitpend (v : Nat) : (s.withRH v).bitpend = s.bitpend := rfl
@[simp] theorem State.withRH_custom (v : Nat) : (s.withRH v).custom = s.custom := rfl
@[simp] theorem State.withRH_cf (v : Nat) : (s.withRH v).cf = s.cf := rfl
@[simp] theorem State.withRH_outbits (v : Nat) : (s.withRH v).outbits = s.outbits := rfl
@[simp] theorem State.withRH_din (v : Nat) : (s.withRH v).din = s.din := rfl
@[simp] theorem State.withRH_totlen (v : Nat) : (s.withRH v).totlen = s.totlen := rfl
@[simp] theorem State.withRH_h (v : Nat) : (s.withRH v).h = s.h := rfl
@[simp] theorem State.withRH_blk (v : Nat) : (s.withRH v).blk = s.blk := rfl
@[simp] theorem State.withRH_dg (v : Nat) : (s.withRH v).dg = s.dg := rfl
@[simp] theorem State.withRH_w (v : Nat) : (s.withRH v).w = s.w := rfl
@[simp] theorem State.withRH_a (v : Nat) : (s.withRH v).a = s.a := rfl
@[simp] theorem State.withRH_b (v : Nat) : (s.withRH v).b = s.b := rfl
@[simp] theorem State.withRH_c (v : Nat) : (s.withRH v).c = s.c := rfl
@[simp] theorem State.withRH_r (v : Nat) : (s.withRH v).r = s.r := rfl
@[simp] theorem State.withRH_rh (v : Nat) : (s.withRH v).rh = BitVec.ofNat 128 v := rfl
@[simp] theorem State.withRH_pending (v : Nat) : (s.withRH v).pending = s.pending := rfl
@[simp] theorem State.withRH_responses (v : Nat) : (s.withRH v).responses = s.responses := rfl
@[simp] theorem State.withRH_engine (v : Nat) : (s.withRH v).engine = s.engine := rfl

/-! ### withCF -/

@[simp] theorem State.withCF_id (f : Bool) : (s.withCF f).id = s.id := rfl
@[simp] theorem State.withCF_phase (f : Bool) : (s.withCF f).phase = s.phase := rfl
@[simp] theorem State.withCF_err (f : Bool) : (s.withCF f).err = s.err := rfl
@[simp] theorem State.withCF_errcode (f : Bool) : (s.withCF f).errcode = s.errcode := rfl
@[simp] theorem State.withCF_mode (f : Bool) : (s.withCF f).mode = s.mode := rfl
@[simp] theorem State.withCF_bitpend (f : Bool) : (s.withCF f).bitpend = s.bitpend := rfl
@[simp] theorem State.withCF_custom (f : Bool) : (s.withCF f).custom = s.custom := rfl
@[simp] theorem State.withCF_cf (f : Bool) : (s.withCF f).cf = f := rfl
@[simp] theorem State.withCF_outbits (f : Bool) : (s.withCF f).outbits = s.outbits := rfl
@[simp] theorem State.withCF_din (f : Bool) : (s.withCF f).din = s.din := rfl
@[simp] theorem State.withCF_totlen (f : Bool) : (s.withCF f).totlen = s.totlen := rfl
@[simp] theorem State.withCF_h (f : Bool) : (s.withCF f).h = s.h := rfl
@[simp] theorem State.withCF_blk (f : Bool) : (s.withCF f).blk = s.blk := rfl
@[simp] theorem State.withCF_dg (f : Bool) : (s.withCF f).dg = s.dg := rfl
@[simp] theorem State.withCF_w (f : Bool) : (s.withCF f).w = s.w := rfl
@[simp] theorem State.withCF_a (f : Bool) : (s.withCF f).a = s.a := rfl
@[simp] theorem State.withCF_b (f : Bool) : (s.withCF f).b = s.b := rfl
@[simp] theorem State.withCF_c (f : Bool) : (s.withCF f).c = s.c := rfl
@[simp] theorem State.withCF_r (f : Bool) : (s.withCF f).r = s.r := rfl
@[simp] theorem State.withCF_rh (f : Bool) : (s.withCF f).rh = s.rh := rfl
@[simp] theorem State.withCF_pending (f : Bool) : (s.withCF f).pending = s.pending := rfl
@[simp] theorem State.withCF_responses (f : Bool) : (s.withCF f).responses = s.responses := rfl
@[simp] theorem State.withCF_engine (f : Bool) : (s.withCF f).engine = s.engine := rfl

/-! ### withPhase -/

@[simp] theorem State.withPhase_id (p : Phase) : (s.withPhase p).id = s.id := rfl
@[simp] theorem State.withPhase_phase (p : Phase) : (s.withPhase p).phase = p := rfl
@[simp] theorem State.withPhase_err (p : Phase) : (s.withPhase p).err = s.err := rfl
@[simp] theorem State.withPhase_errcode (p : Phase) : (s.withPhase p).errcode = s.errcode := rfl
@[simp] theorem State.withPhase_mode (p : Phase) : (s.withPhase p).mode = s.mode := rfl
@[simp] theorem State.withPhase_bitpend (p : Phase) : (s.withPhase p).bitpend = s.bitpend := rfl
@[simp] theorem State.withPhase_custom (p : Phase) : (s.withPhase p).custom = s.custom := rfl
@[simp] theorem State.withPhase_cf (p : Phase) : (s.withPhase p).cf = s.cf := rfl
@[simp] theorem State.withPhase_outbits (p : Phase) : (s.withPhase p).outbits = s.outbits := rfl
@[simp] theorem State.withPhase_din (p : Phase) : (s.withPhase p).din = s.din := rfl
@[simp] theorem State.withPhase_totlen (p : Phase) : (s.withPhase p).totlen = s.totlen := rfl
@[simp] theorem State.withPhase_h (p : Phase) : (s.withPhase p).h = s.h := rfl
@[simp] theorem State.withPhase_blk (p : Phase) : (s.withPhase p).blk = s.blk := rfl
@[simp] theorem State.withPhase_dg (p : Phase) : (s.withPhase p).dg = s.dg := rfl
@[simp] theorem State.withPhase_w (p : Phase) : (s.withPhase p).w = s.w := rfl
@[simp] theorem State.withPhase_a (p : Phase) : (s.withPhase p).a = s.a := rfl
@[simp] theorem State.withPhase_b (p : Phase) : (s.withPhase p).b = s.b := rfl
@[simp] theorem State.withPhase_c (p : Phase) : (s.withPhase p).c = s.c := rfl
@[simp] theorem State.withPhase_r (p : Phase) : (s.withPhase p).r = s.r := rfl
@[simp] theorem State.withPhase_rh (p : Phase) : (s.withPhase p).rh = s.rh := rfl
@[simp] theorem State.withPhase_pending (p : Phase) : (s.withPhase p).pending = s.pending := rfl
@[simp] theorem State.withPhase_responses (p : Phase) :
    (s.withPhase p).responses = s.responses := rfl
@[simp] theorem State.withPhase_engine (p : Phase) : (s.withPhase p).engine = s.engine := rfl

/-! ### runBlock -/

@[simp] theorem State.runBlock_id (P : List Byte) : (s.runBlock P).id = s.id := rfl
@[simp] theorem State.runBlock_phase (P : List Byte) : (s.runBlock P).phase = s.phase := rfl
@[simp] theorem State.runBlock_err (P : List Byte) : (s.runBlock P).err = s.err := rfl
@[simp] theorem State.runBlock_errcode (P : List Byte) : (s.runBlock P).errcode = s.errcode := rfl
@[simp] theorem State.runBlock_mode (P : List Byte) : (s.runBlock P).mode = s.mode := rfl
@[simp] theorem State.runBlock_bitpend (P : List Byte) : (s.runBlock P).bitpend = s.bitpend := rfl
@[simp] theorem State.runBlock_custom (P : List Byte) : (s.runBlock P).custom = s.custom := rfl
@[simp] theorem State.runBlock_cf (P : List Byte) : (s.runBlock P).cf = s.cf := rfl
@[simp] theorem State.runBlock_outbits (P : List Byte) : (s.runBlock P).outbits = s.outbits := rfl
@[simp] theorem State.runBlock_din (P : List Byte) : (s.runBlock P).din = s.din := rfl
@[simp] theorem State.runBlock_totlen (P : List Byte) : (s.runBlock P).totlen = s.totlen := rfl
@[simp] theorem State.runBlock_h (P : List Byte) : (s.runBlock P).h = s.engine.chain s.h P := rfl
@[simp] theorem State.runBlock_blk (P : List Byte) : (s.runBlock P).blk = s.blk := rfl
@[simp] theorem State.runBlock_dg (P : List Byte) : (s.runBlock P).dg = s.dg := rfl
@[simp] theorem State.runBlock_w (P : List Byte) : (s.runBlock P).w = s.engine.schedArray P := rfl
@[simp] theorem State.runBlock_a (P : List Byte) : (s.runBlock P).a = s.a := rfl
@[simp] theorem State.runBlock_b (P : List Byte) : (s.runBlock P).b = s.b := rfl
@[simp] theorem State.runBlock_c (P : List Byte) : (s.runBlock P).c = s.c := rfl
@[simp] theorem State.runBlock_r (P : List Byte) : (s.runBlock P).r = s.r := rfl
@[simp] theorem State.runBlock_rh (P : List Byte) : (s.runBlock P).rh = s.rh := rfl
@[simp] theorem State.runBlock_pending (P : List Byte) : (s.runBlock P).pending = s.pending := rfl
@[simp] theorem State.runBlock_responses (P : List Byte) :
    (s.runBlock P).responses = s.responses := rfl
@[simp] theorem State.runBlock_engine (P : List Byte) : (s.runBlock P).engine = s.engine := rfl

/-! ### pushByte -/

@[simp] theorem State.pushByte_id (x : Byte) : (s.pushByte x).id = s.id := rfl
@[simp] theorem State.pushByte_phase (x : Byte) : (s.pushByte x).phase = s.phase := rfl
@[simp] theorem State.pushByte_err (x : Byte) : (s.pushByte x).err = s.err := rfl
@[simp] theorem State.pushByte_errcode (x : Byte) : (s.pushByte x).errcode = s.errcode := rfl
@[simp] theorem State.pushByte_mode (x : Byte) : (s.pushByte x).mode = s.mode := rfl
@[simp] theorem State.pushByte_bitpend (x : Byte) : (s.pushByte x).bitpend = s.bitpend := rfl
@[simp] theorem State.pushByte_custom (x : Byte) : (s.pushByte x).custom = s.custom := rfl
@[simp] theorem State.pushByte_cf (x : Byte) : (s.pushByte x).cf = s.cf := rfl
@[simp] theorem State.pushByte_outbits (x : Byte) : (s.pushByte x).outbits = s.outbits := rfl
@[simp] theorem State.pushByte_din (x : Byte) : (s.pushByte x).din = s.din := rfl
@[simp] theorem State.pushByte_totlen (x : Byte) : (s.pushByte x).totlen = s.totlen + 8 := rfl
@[simp] theorem State.pushByte_h (x : Byte) : (s.pushByte x).h = s.h := rfl
@[simp] theorem State.pushByte_blk (x : Byte) :
    (s.pushByte x).blk = s.blk.setIfInBounds (s.bufbits / 8) x := rfl
@[simp] theorem State.pushByte_dg (x : Byte) : (s.pushByte x).dg = s.dg := rfl
@[simp] theorem State.pushByte_w (x : Byte) : (s.pushByte x).w = s.w := rfl
@[simp] theorem State.pushByte_a (x : Byte) : (s.pushByte x).a = s.a := rfl
@[simp] theorem State.pushByte_b (x : Byte) : (s.pushByte x).b = s.b := rfl
@[simp] theorem State.pushByte_c (x : Byte) : (s.pushByte x).c = s.c := rfl
@[simp] theorem State.pushByte_r (x : Byte) : (s.pushByte x).r = s.r := rfl
@[simp] theorem State.pushByte_rh (x : Byte) : (s.pushByte x).rh = s.rh := rfl
@[simp] theorem State.pushByte_pending (x : Byte) : (s.pushByte x).pending = s.pending := rfl
@[simp] theorem State.pushByte_responses (x : Byte) : (s.pushByte x).responses = s.responses := rfl
@[simp] theorem State.pushByte_engine (x : Byte) : (s.pushByte x).engine = s.engine := rfl

/-! ### appendBits -/

@[simp] theorem State.appendBits_id (n : Nat) : (s.appendBits n).id = s.id := rfl
@[simp] theorem State.appendBits_phase (n : Nat) : (s.appendBits n).phase = .accum := rfl
@[simp] theorem State.appendBits_err (n : Nat) : (s.appendBits n).err = s.err := rfl
@[simp] theorem State.appendBits_errcode (n : Nat) : (s.appendBits n).errcode = s.errcode := rfl
@[simp] theorem State.appendBits_mode (n : Nat) : (s.appendBits n).mode = s.mode := rfl
@[simp] theorem State.appendBits_bitpend (n : Nat) : (s.appendBits n).bitpend = true := rfl
@[simp] theorem State.appendBits_custom (n : Nat) : (s.appendBits n).custom = s.custom := rfl
@[simp] theorem State.appendBits_cf (n : Nat) : (s.appendBits n).cf = s.cf := rfl
@[simp] theorem State.appendBits_outbits (n : Nat) : (s.appendBits n).outbits = s.outbits := rfl
@[simp] theorem State.appendBits_din (n : Nat) : (s.appendBits n).din = s.din := rfl
@[simp] theorem State.appendBits_totlen (n : Nat) :
    (s.appendBits n).totlen = s.totlen + BitVec.ofNat 128 n := rfl
@[simp] theorem State.appendBits_h (n : Nat) : (s.appendBits n).h = s.h := rfl
@[simp] theorem State.appendBits_blk (n : Nat) :
    (s.appendBits n).blk = s.blk.setIfInBounds (s.bufbits / 8) (laneByte s.din 0 &&& highBitsMask n) := rfl
@[simp] theorem State.appendBits_dg (n : Nat) : (s.appendBits n).dg = s.dg := rfl
@[simp] theorem State.appendBits_w (n : Nat) : (s.appendBits n).w = s.w := rfl
@[simp] theorem State.appendBits_a (n : Nat) : (s.appendBits n).a = s.a := rfl
@[simp] theorem State.appendBits_b (n : Nat) : (s.appendBits n).b = s.b := rfl
@[simp] theorem State.appendBits_c (n : Nat) : (s.appendBits n).c = s.c := rfl
@[simp] theorem State.appendBits_r (n : Nat) : (s.appendBits n).r = s.r := rfl
@[simp] theorem State.appendBits_rh (n : Nat) : (s.appendBits n).rh = s.rh := rfl
@[simp] theorem State.appendBits_pending (n : Nat) : (s.appendBits n).pending = s.pending := rfl
@[simp] theorem State.appendBits_responses (n : Nat) :
    (s.appendBits n).responses = s.responses := rfl
@[simp] theorem State.appendBits_engine (n : Nat) : (s.appendBits n).engine = s.engine := rfl

/-! ### reset and the port queue -/

@[simp] theorem State.afterReset_id : s.afterReset.id = s.id := IdReg.eq _ _
@[simp] theorem State.afterReset_phase : s.afterReset.phase = .unconf := rfl
@[simp] theorem State.afterReset_err : s.afterReset.err = false := rfl
@[simp] theorem State.afterReset_errcode : s.afterReset.errcode = none := rfl
@[simp] theorem State.afterReset_mode : s.afterReset.mode = .md4 := rfl
@[simp] theorem State.afterReset_bitpend : s.afterReset.bitpend = false := rfl
@[simp] theorem State.afterReset_custom : s.afterReset.custom = false := rfl
@[simp] theorem State.afterReset_cf : s.afterReset.cf = false := rfl
@[simp] theorem State.afterReset_outbits : s.afterReset.outbits = 0 := rfl
@[simp] theorem State.afterReset_din : s.afterReset.din = 0 := rfl
@[simp] theorem State.afterReset_totlen : s.afterReset.totlen = 0 := rfl
@[simp] theorem State.afterReset_h : s.afterReset.h = Vector.replicate 8 0 := rfl
@[simp] theorem State.afterReset_blk : s.afterReset.blk = Vector.replicate 128 0 := rfl
@[simp] theorem State.afterReset_dg : s.afterReset.dg = Vector.replicate 64 0 := rfl
@[simp] theorem State.afterReset_w : s.afterReset.w = Vector.replicate 80 0 := rfl
@[simp] theorem State.afterReset_a : s.afterReset.a = 0 := rfl
@[simp] theorem State.afterReset_b : s.afterReset.b = 0 := rfl
@[simp] theorem State.afterReset_c : s.afterReset.c = 0 := rfl
@[simp] theorem State.afterReset_r : s.afterReset.r = 0 := rfl
@[simp] theorem State.afterReset_rh : s.afterReset.rh = 0 := rfl
@[simp] theorem State.afterReset_pending : s.afterReset.pending = s.pending := rfl
@[simp] theorem State.afterReset_responses : s.afterReset.responses = s.responses := rfl

end Machine

end Sys2Proof
end

