-- ==== Sys2Proof/Laws/Streaming.lean ====
section
/-! SUPPORT. What appending bytes can change: BLK, TOTLEN, H and W, nothing else. -/

namespace Sys2Proof.Machine

/-- One byte: BLK, TOTLEN, H and W only (41_streaming.md R152). -/
theorem State.appendByte_frame (s : State) (b : Byte) :
    s.appendByte b = { s with
      blk := (s.appendByte b).blk, totlen := s.totlen + 8
      h := (s.appendByte b).h, w := (s.appendByte b).w } := by
  simp only [State.appendByte, State.compressIfFull]
  split <;> rfl

@[simp] theorem State.appendByte_totlen (s : State) (b : Byte) : (s.appendByte b).totlen = s.totlen + 8 := by
  rw [State.appendByte_frame]

@[simp] theorem State.appendByte_blk (s : State) (b : Byte) :
    (s.appendByte b).blk = s.blk.setIfInBounds (s.bufbits / 8) b := by
  simp only [State.appendByte, State.compressIfFull]
  split <;> rfl

@[simp] theorem State.appendByte_mode (s : State) (b : Byte) : (s.appendByte b).mode = s.mode := by
  rw [State.appendByte_frame]

@[simp] theorem State.appendByte_engine (s : State) (b : Byte) : (s.appendByte b).engine = s.engine := by
  simp [State.engine]

@[simp] theorem State.appendBytes_nil (s : State) : s.appendBytes [] = s := rfl

@[simp] theorem State.appendBytes_cons (s : State) (b : Byte) (bs : List Byte) :
    s.appendBytes (b :: bs) = (s.appendByte b).appendBytes bs := rfl

/-- Bytes one string after another. -/
theorem State.appendBytes_append (s : State) (xs ys : List Byte) :
    s.appendBytes (xs ++ ys) = (s.appendBytes xs).appendBytes ys := List.foldl_append

@[simp] theorem State.appendBytes_totlen (s : State) (bs : List Byte) :
    (s.appendBytes bs).totlen = s.totlen + BitVec.ofNat 128 (8 * bs.length) := by
  induction bs generalizing s with
  | nil => simp
  | cons b bs ih =>
    rw [State.appendBytes_cons, ih, State.appendByte_totlen, List.length_cons, mul_add, mul_one,
      Nat.add_comm, BitVec.ofNat_add, BitVec.add_assoc]
    rfl

/-- Bytes: BLK, TOTLEN, H and W only (41_streaming.md R151, R152). -/
theorem State.appendBytes_frame (s : State) (bs : List Byte) :
    s.appendBytes bs = { s with
      blk := (s.appendBytes bs).blk, totlen := (s.appendBytes bs).totlen
      h := (s.appendBytes bs).h, w := (s.appendBytes bs).w } := by
  induction bs generalizing s with
  | nil => rfl
  | cons b bs ih =>
    rw [State.appendBytes_cons]
    have h := ih (s.appendByte b)
    have h1 := State.appendByte_frame s b
    generalize hu : (s.appendByte b).appendBytes bs = u at h ⊢
    generalize hv : s.appendByte b = v at h h1
    rw [h, h1]

@[simp] theorem State.appendBytes_mode (s : State) (bs : List Byte) : (s.appendBytes bs).mode = s.mode := by
  rw [State.appendBytes_frame]

@[simp] theorem State.appendBytes_engine (s : State) (bs : List Byte) :
    (s.appendBytes bs).engine = s.engine := by simp [State.engine]

@[simp] theorem State.appendBytes_bitpend (s : State) (bs : List Byte) :
    (s.appendBytes bs).bitpend = s.bitpend := by
  rw [State.appendBytes_frame]

@[simp] theorem State.dinBytes_length (s : State) (n : Nat) : (s.dinBytes n).length = n := by
  simp [State.dinBytes]

end Sys2Proof.Machine
end

