-- ==== Sys2Proof/Laws/Checks.lean ====
section
/-! SUPPORT. The table of state checks, and the blocks that a string of absorbed bytes completes. -/

namespace Sys2Proof.Machine

@[simp] theorem firstFailure_nil : firstFailure [] = none := rfl

/-- The first check that fails names the code. -/
@[simp] theorem firstFailure_cons (b : Bool) (c : CmdError) (rest : List (Bool × CmdError)) :
    firstFailure ((b, c) :: rest) = if b then some c else firstFailure rest := by cases b <;> rfl

/-- The engine's block is a whole block (10_state.md R35). -/
@[simp] theorem State.block_length (s : State) : s.block.length = s.engine.blockBytes := by
  simp only [State.block, List.length_take, Vector.length_toList]
  cases s.engine <;> rfl

/-- The blocks completed by one byte, then by the bytes after it. -/
theorem State.blocksCompleted_succ (s : State) (b : Byte) (n : Nat) :
    s.blocksCompleted (n + 1) =
      (if (s.totlen + 8).toNat % s.engine.blockBits = 0 then 1 else 0)
        + (s.appendByte b).blocksCompleted n := by
  unfold State.blocksCompleted
  rw [List.range_succ_eq_map, List.countP_cons, List.countP_map, Nat.add_comm]
  congr 1
  · simp only [beq_iff_eq]; rfl
  apply List.countP_congr
  intro j _
  simp only [Function.comp, State.appendByte_totlen, State.appendByte_engine]
  have h : s.totlen + BitVec.ofNat 128 (8 * (j.succ + 1))
      = s.totlen + 8 + BitVec.ofNat 128 (8 * (j + 1)) := by
    rw [BitVec.add_assoc]
    congr 1
    apply BitVec.eq_of_toNat_eq
    simp [BitVec.toNat_add]
    omega
  rw [h]

/-- Absorbed bytes run as many blocks as they complete: H is the chain over them and W the schedule of the
last (41_streaming.md R152, 42_block_engine.md R194). -/
theorem State.appendBytes_blocks (s : State) (bs : List Byte) :
    ∃ blocks : List (List Byte), blocks.length = s.blocksCompleted bs.length
      ∧ (∀ P ∈ blocks, P.length = s.engine.blockBytes)
      ∧ (s.appendBytes bs).h = blocks.foldl s.engine.chain s.h
      ∧ (s.appendBytes bs).w = blocks.foldl (fun _ P => s.engine.schedArray P) s.w := by
  induction bs generalizing s with
  | nil => exact ⟨[], rfl, by simp, rfl, rfl⟩
  | cons b bs ih =>
    obtain ⟨blocks, hn, hl, hh, hw⟩ := ih (s.appendByte b)
    rw [State.appendByte_engine] at hl hh hw
    rw [State.appendBytes_cons, List.length_cons, State.blocksCompleted_succ s b]
    by_cases full : (s.pushByte b).bufbits = 0
    · have hb : s.appendByte b = (s.pushByte b).runBlock (s.pushByte b).block := by
        simp [State.appendByte, State.compressIfFull, full]
      refine ⟨(s.pushByte b).block :: blocks, ?_, ?_, ?_, ?_⟩
      · rw [if_pos (show (s.totlen + 8).toNat % s.engine.blockBits = 0 from full), List.length_cons, hn,
          Nat.add_comm]
      · intro P hP
        rcases List.mem_cons.1 hP with rfl | h
        · rw [State.block_length, State.pushByte_engine]
        · exact hl P h
      · rw [hh, hb, List.foldl_cons, State.runBlock_h, State.pushByte_h, State.pushByte_engine]
      · rw [hw, hb, List.foldl_cons, State.runBlock_w, State.pushByte_engine]
    · have hb : s.appendByte b = s.pushByte b := by
        simp [State.appendByte, State.compressIfFull, full]
      refine ⟨blocks, ?_, hl, by rw [hh, hb, State.pushByte_h], by rw [hw, hb, State.pushByte_w]⟩
      rw [if_neg (show ¬(s.totlen + 8).toNat % s.engine.blockBits = 0 from full), hn, Nat.zero_add]

end Sys2Proof.Machine
end

