-- ==== Sys2Proof/Laws/Decode.lean ====
section
/-! SUPPORT. Codes, fields of a command word, and everything the decoder can answer. -/

namespace Sys2Proof

@[simp] theorem Mode.ofCode_code (m : Mode) : Mode.ofCode m.code = some m := by cases m <;> rfl

@[simp] theorem Width.ofCode_code (w : Width) : Width.ofCode w.code = some w := by cases w <;> rfl

/-- A mode code has one mode. -/
theorem Mode.code_of_ofCode {f : BitVec 4} {m : Mode} (h : Mode.ofCode f = some m) : m.code = f := by
  revert f m; decide +revert

/-- A width code has one width. -/
theorem Width.code_of_ofCode {f : BitVec 4} {w : Width} (h : Width.ofCode f = some w) : w.code = f := by
  revert f w; decide +revert

/-- Codes 10 to 15 are no mode. -/
theorem Mode.ofCode_eq_none (f : BitVec 4) : Mode.ofCode f = none ↔ 9 < f.toNat := by
  revert f; decide

/-- Codes 5 to 15 are no width. -/
theorem Width.ofCode_eq_none (f : BitVec 4) : Width.ofCode f = none ↔ 4 < f.toNat := by
  revert f; decide

theorem fieldOpc_toNat (v : Word32) : (fieldOpc v).toNat = v.toNat % 2 ^ 8 := by
  simp [fieldOpc, BitVec.extractLsb'_toNat]

theorem fieldF1_toNat (v : Word32) : (fieldF1 v).toNat = v.toNat / 2 ^ 8 % 2 ^ 4 := by
  simp [fieldF1, BitVec.extractLsb'_toNat, Nat.shiftRight_eq_div_pow]

theorem fieldF2_toNat (v : Word32) : (fieldF2 v).toNat = v.toNat / 2 ^ 12 % 2 ^ 4 := by
  simp [fieldF2, BitVec.extractLsb'_toNat, Nat.shiftRight_eq_div_pow]

theorem fieldRsv_toNat (v : Word32) : (fieldRsv v).toNat = v.toNat / 2 ^ 16 := by
  have := v.isLt
  simp only [fieldRsv, BitVec.extractLsb'_toNat, Nat.shiftRight_eq_div_pow]
  omega

/-- A command word as a number. -/
theorem commandWord_toNat (opc : BitVec 8) (f1 f2 : BitVec 4) :
    (commandWord opc f1 f2).toNat = opc.toNat + 2 ^ 8 * f1.toNat + 2 ^ 12 * f2.toNat := by
  have h1 := opc.isLt
  have h2 := f1.isLt
  have h3 := f2.isLt
  simp only [commandWord, BitVec.toNat_append, BitVec.toNat_ofNat]
  rw [← Nat.shiftLeft_add_eq_or_of_lt h3, ← Nat.shiftLeft_add_eq_or_of_lt h2,
    ← Nat.shiftLeft_add_eq_or_of_lt h1]
  simp only [Nat.shiftLeft_eq]
  omega

@[simp] theorem fieldOpc_commandWord (opc : BitVec 8) (f1 f2 : BitVec 4) :
    fieldOpc (commandWord opc f1 f2) = opc := by
  apply BitVec.eq_of_toNat_eq
  have := opc.isLt
  rw [fieldOpc_toNat, commandWord_toNat]; omega

@[simp] theorem fieldF1_commandWord (opc : BitVec 8) (f1 f2 : BitVec 4) :
    fieldF1 (commandWord opc f1 f2) = f1 := by
  apply BitVec.eq_of_toNat_eq
  have := opc.isLt
  have := f1.isLt
  rw [fieldF1_toNat, commandWord_toNat]; omega

@[simp] theorem fieldF2_commandWord (opc : BitVec 8) (f1 f2 : BitVec 4) :
    fieldF2 (commandWord opc f1 f2) = f2 := by
  apply BitVec.eq_of_toNat_eq
  have := opc.isLt
  have := f1.isLt
  have := f2.isLt
  rw [fieldF2_toNat, commandWord_toNat]; omega

@[simp] theorem fieldRsv_commandWord (opc : BitVec 8) (f1 f2 : BitVec 4) :
    fieldRsv (commandWord opc f1 f2) = 0 := by
  apply BitVec.eq_of_toNat_eq
  have := opc.isLt
  have := f1.isLt
  have := f2.isLt
  rw [fieldRsv_toNat, commandWord_toNat, show (0 : BitVec 16).toNat = 0 from rfl]; omega

/-- A word is the command word of its fields when its reserved field is 0. -/
theorem commandWord_fields {v : Word32} (h : fieldRsv v = 0) :
    commandWord (fieldOpc v) (fieldF1 v) (fieldF2 v) = v := by
  apply BitVec.eq_of_toNat_eq
  have h' := congrArg BitVec.toNat h
  rw [fieldRsv_toNat, show (0 : BitVec 16).toNat = 0 from rfl] at h'
  rw [commandWord_toNat, fieldOpc_toNat, fieldF1_toNat, fieldF2_toNat]
  omega

/-- What a form accepts: a mode, nothing, a count in range, or a width, its other fields 0. -/
theorem CommandForm.read_ok_cases {form : CommandForm} {f1 f2 : BitVec 4} {i : Instr}
    (h : form.read f1 f2 = .ok i) :
    (∃ mk m, form = .mode mk ∧ f2 = 0 ∧ f1 = m.code ∧ i = mk m)
    ∨ (form = .plain i ∧ f1 = 0 ∧ f2 = 0)
    ∨ (∃ max mk, form = .count max mk ∧ f1 = 0 ∧ f2.toNat ≤ max ∧ i = mk f2)
    ∨ ∃ mk w, form = .width mk ∧ f2 = 0 ∧ f1 = w.code ∧ i = mk w := by
  cases form with
  | mode mk =>
    simp only [CommandForm.read] at h
    split at h
    · cases h
    split at h
    · cases h
    · cases h
      exact .inl ⟨mk, _, rfl, not_not.mp ‹_›, (Mode.code_of_ofCode ‹_›).symm, rfl⟩
  | plain j =>
    simp only [CommandForm.read] at h
    split at h
    · cases h
    · cases h
      rename_i hz
      simp only [ne_eq, not_or, not_not] at hz
      exact .inr (.inl ⟨rfl, hz.1, hz.2⟩)
  | count max mk =>
    simp only [CommandForm.read] at h
    split at h
    · cases h
    split at h
    · cases h
    · cases h
      exact .inr (.inr (.inl ⟨max, mk, rfl, not_not.mp ‹_›, by omega, rfl⟩))
  | width mk =>
    simp only [CommandForm.read] at h
    split at h
    · cases h
    split at h
    · cases h
    · cases h
      exact .inr (.inr (.inr ⟨mk, _, rfl, not_not.mp ‹_›, (Width.code_of_ofCode ‹_›).symm, rfl⟩))

/-- What decode accepts: an opcode of the map, RSV = 0, and fields its form accepts. -/
theorem decode_ok_cases {v : Word32} {i : Instr} (h : decode v = .ok i) :
    ∃ form, opcodeForm (fieldOpc v) = some form ∧ fieldRsv v = 0
      ∧ form.read (fieldF1 v) (fieldF2 v) = .ok i := by
  unfold decode at h
  split at h
  · cases h
  split at h
  · cases h
  · exact ⟨_, by assumption, not_not.mp ‹_›, h⟩

end Sys2Proof
end

