-- ==== Sys2Proof/Laws/Port.lean ====
section
/-! SUPPORT. Words of wide registers, byte lanes and port events. -/

namespace Sys2Proof

@[simp] theorem PortReg.cmd_offset : PortReg.cmd.offset = 0x001 := rfl

@[simp] theorem portReg_cmd : portReg 1#10 = some .cmd := rfl

/-- Bit `j` of a register with one word replaced. -/
theorem withWord_getLsbD {n : Nat} (x : BitVec n) (k : Nat) (v : Word32) (j : Nat) (hj : j < n) :
    (withWord x k v).getLsbD j =
      if 32 * k ≤ j ∧ j < 32 * k + 32 then v.getLsbD (j - 32 * k) else x.getLsbD j := by
  by_cases h1 : 32 * k ≤ j
  · by_cases h2 : j < 32 * k + 32
    · have : j - 32 * k < 32 := by omega
      have h3 : j - 32 * k < n := by omega
      simp only [withWord, BitVec.getLsbD_or, BitVec.getLsbD_and, BitVec.getLsbD_not,
        BitVec.getLsbD_shiftLeft, BitVec.getLsbD_setWidth, BitVec.getLsbD_allOnes]
      simp [h1, h2, hj, this, h3, show ¬j < 32 * k by omega]
    · have : ¬ j - 32 * k < 32 := by omega
      have h3 : v.getLsbD (j - 32 * k) = false := BitVec.getLsbD_of_ge _ _ (by omega)
      simp only [withWord, BitVec.getLsbD_or, BitVec.getLsbD_and, BitVec.getLsbD_not,
        BitVec.getLsbD_shiftLeft, BitVec.getLsbD_setWidth, BitVec.getLsbD_allOnes]
      simp [h1, h2, hj, this, h3]
  · simp [withWord, h1, hj, show j < 32 * k by omega]

/-- Bit `j` of word `k`. -/
theorem wordOf_getLsbD {n : Nat} (x : BitVec n) (k j : Nat) :
    (wordOf x k).getLsbD j = (decide (j < 32) && x.getLsbD (32 * k + j)) := by
  simp [wordOf, BitVec.getLsbD_extractLsb']

/-- The word written is the word read. -/
theorem wordOf_withWord_same {n : Nat} (x : BitVec n) (k : Nat) (v : Word32) (h : 32 * k + 32 ≤ n) :
    wordOf (withWord x k v) k = v := by
  apply BitVec.eq_of_getLsbD_eq
  intro j hj
  rw [wordOf_getLsbD, withWord_getLsbD _ _ _ _ (by omega)]
  simp [hj]

/-- A write to one word leaves the others. -/
theorem wordOf_withWord_ne {n : Nat} (x : BitVec n) (k l : Nat) (v : Word32) (h : k ≠ l) :
    wordOf (withWord x k v) l = wordOf x l := by
  apply BitVec.eq_of_getLsbD_eq
  intro j hj
  rw [wordOf_getLsbD, wordOf_getLsbD]
  by_cases hn : 32 * l + j < n
  · rw [withWord_getLsbD _ _ _ _ hn, if_neg (by omega)]
  · rw [BitVec.getLsbD_of_ge _ _ (by omega), BitVec.getLsbD_of_ge _ _ (by omega)]

/-- Byte `n` of a byte array with one port word written. -/
theorem withLanes_getElem {n : Nat} (x : Vector Byte (4 * n)) (j : Fin n) (v : Word32) (i : Nat)
    (hi : i < 4 * n) :
    (withLanes x j v)[i] = if i / 4 = j.val then laneByte v (i % 4) else x[i] := by
  have hj := j.isLt
  simp only [withLanes, Vector.getElem_set]
  split
  · rw [if_pos (by omega), show i % 4 = 3 by omega]
  split
  · rw [if_pos (by omega), show i % 4 = 2 by omega]
  split
  · rw [if_pos (by omega), show i % 4 = 1 by omega]
  split
  · rw [if_pos (by omega), show i % 4 = 0 by omega]
  · rw [if_neg (by omega)]

/-- Four lanes put a word together again. -/
theorem laneBytes_append (v : Word32) :
    laneByte v 3 ++ laneByte v 2 ++ laneByte v 1 ++ laneByte v 0 = v := by
  apply BitVec.eq_of_getLsbD_eq
  intro j hj
  simp only [laneByte, BitVec.getLsbD_append, BitVec.getLsbD_extractLsb']
  interval_cases j <;> simp

theorem lanes_withLanes_same {n : Nat} (x : Vector Byte (4 * n)) (j : Fin n) (v : Word32) :
    lanes (withLanes x j v) j = v := by
  have hj := j.isLt
  unfold lanes
  simp only [withLanes_getElem]
  rw [if_pos (by omega), if_pos (by omega), if_pos (by omega), if_pos (by omega)]
  have h0 : 4 * j.val % 4 = 0 := by omega
  have h1 : (4 * j.val + 1) % 4 = 1 := by omega
  have h2 : (4 * j.val + 2) % 4 = 2 := by omega
  have h3 : (4 * j.val + 3) % 4 = 3 := by omega
  rw [h0, h1, h2, h3]
  exact laneBytes_append v

theorem lanes_withLanes_ne {n : Nat} (x : Vector Byte (4 * n)) (j k : Fin n) (v : Word32) (h : k ≠ j) :
    lanes (withLanes x j v) k = lanes x k := by
  have hk : k.val ≠ j.val := fun e => h (Fin.ext e)
  unfold lanes
  simp only [withLanes_getElem]
  rw [if_neg (by omega), if_neg (by omega), if_neg (by omega), if_neg (by omega)]

namespace Machine

/-- What a port event can do: a read, a reset, or a write that issues a command, stores, or is ignored. -/
theorem State.perform_cases {s t : State} {e : PortEvent} (h : s.perform e = .next t) :
    (∃ off, e = .read off ∧ t = { s with responses := s.responses ++ [s.busRead off] })
    ∨ (e = .reset ∧ t = s.afterReset)
    ∨ (∃ off v, e = .write off v ∧ portReg off = none ∧ t = s)
    ∨ (∃ off v reg, e = .write off v ∧ portReg off = some reg ∧ reg ≠ .cmd ∧ t = s.writeReg reg v)
    ∨ ∃ off v, e = .write off v ∧ portReg off = some .cmd ∧ s.issue v = .next t := by
  cases e with
  | read off => exact .inl ⟨off, rfl, by simpa [State.perform] using h.symm⟩
  | reset => exact .inr (.inl ⟨rfl, by simpa [State.perform] using h.symm⟩)
  | write off v =>
    simp only [State.perform, State.busWrite] at h
    split at h
    · exact .inr (.inr (.inl ⟨off, v, rfl, by assumption, by simpa using h.symm⟩))
    · exact .inr (.inr (.inr (.inr ⟨off, v, rfl, by assumption, h⟩)))
    · exact .inr (.inr (.inr (.inl ⟨off, v, _, rfl, by assumption, by assumption,
        by simpa using h.symm⟩)))

/-- What issuing a word can do: record a refusal, or run the command it decodes to. -/
theorem State.issue_cases {s t : State} {v : Word32} (h : s.issue v = .next t) :
    (∃ c, decode v = .error c ∧ t = s.recordError c) ∨ ∃ i, decode v = .ok i ∧ exec i s = .next t := by
  unfold State.issue at h
  split at h
  · exact .inl ⟨_, by assumption, by simpa [State.refuse] using h.symm⟩
  · exact .inr ⟨_, by assumption, h⟩

end Machine

end Sys2Proof
end

