-- ==== Sys2Proof/Laws/Exec.lean ====
section
/-! SUPPORT. What the refusing meanings can do, said once each, and how statements compose. -/

namespace Sys2Proof.Machine

@[simp] theorem State.refuse_eq (s : State) (c : CmdError) : s.refuse c = .next (s.recordError c) := rfl

/-- ABSORB: a refusal, nothing, or the bytes appended. -/
theorem execAbsorb_cases {n : BitVec 4} {s t : State} (h : execAbsorb n s = .next t) :
    (4 < n.toNat ∧ t = s.recordError .badCount)
    ∨ (n.toNat ≤ 4 ∧ s.phase = .unconf ∧ t = s.recordError .noMode)
    ∨ (n.toNat ≤ 4 ∧ s.phase ≠ .unconf ∧ s.bitpend = true ∧ t = s.recordError .bitPending)
    ∨ (n = 0 ∧ s.phase ≠ .unconf ∧ s.bitpend = false ∧ t = s)
    ∨ (n.toNat ≤ 4 ∧ n ≠ 0 ∧ s.phase ≠ .unconf ∧ s.bitpend = false
        ∧ t = (s.appendBytes (s.dinBytes n.toNat)).withPhase .accum) := by
  unfold execAbsorb at h
  split at h
  · exact .inl ⟨‹_›, by simpa using h.symm⟩
  split at h
  · exact .inr (.inl ⟨by omega, ‹_›, by simpa using h.symm⟩)
  split at h
  · exact .inr (.inr (.inl ⟨by omega, ‹_›, ‹_›, by simpa using h.symm⟩))
  split at h
  · exact .inr (.inr (.inr (.inl ⟨‹_›, ‹_›, by simpa using ‹¬s.bitpend = true›, by simpa using h.symm⟩)))
  · exact .inr (.inr (.inr (.inr ⟨by omega, ‹_›, ‹_›, by simpa using ‹¬s.bitpend = true›,
      by simpa using h.symm⟩)))

/-- ABSORBBITS: a refusal, nothing, or the partial byte appended. -/
theorem execAbsorbbits_cases {n : BitVec 4} {s t : State} (h : execAbsorbbits n s = .next t) :
    (7 < n.toNat ∧ t = s.recordError .badCount)
    ∨ (n.toNat ≤ 7 ∧ s.phase = .unconf ∧ t = s.recordError .noMode)
    ∨ (n.toNat ≤ 7 ∧ s.phase ≠ .unconf ∧ s.engine ≠ .sha512 ∧ t = s.recordError .bitMode)
    ∨ (n.toNat ≤ 7 ∧ s.phase ≠ .unconf ∧ s.engine = .sha512 ∧ s.bitpend = true
        ∧ t = s.recordError .bitPending)
    ∨ (n = 0 ∧ s.phase ≠ .unconf ∧ s.engine = .sha512 ∧ s.bitpend = false ∧ t = s)
    ∨ (n.toNat ≤ 7 ∧ n ≠ 0 ∧ s.phase ≠ .unconf ∧ s.engine = .sha512 ∧ s.bitpend = false
        ∧ t = s.appendBits n.toNat) := by
  unfold execAbsorbbits at h
  split at h
  · exact .inl ⟨‹_›, by simpa using h.symm⟩
  split at h
  · exact .inr (.inl ⟨by omega, ‹_›, by simpa using h.symm⟩)
  split at h
  · exact .inr (.inr (.inl ⟨by omega, ‹_›, ‹_›, by simpa using h.symm⟩))
  have he : s.engine = .sha512 := by simpa using ‹¬s.engine ≠ .sha512›
  split at h
  · exact .inr (.inr (.inr (.inl ⟨by omega, ‹_›, he, ‹_›, by simpa using h.symm⟩)))
  have hb : s.bitpend = false := by simpa using ‹¬s.bitpend = true›
  split at h
  · exact .inr (.inr (.inr (.inr (.inl ⟨‹_›, ‹_›, he, hb, by simpa using h.symm⟩))))
  · exact .inr (.inr (.inr (.inr (.inr ⟨by omega, ‹_›, ‹_›, he, hb, by simpa using h.symm⟩))))

/-- FINAL: a refusal, or the digest delivered. -/
theorem execFinal_cases {s t : State} (h : execFinal s = .next t) :
    (s.phase = .unconf ∧ t = s.recordError .noMode)
    ∨ (s.phase ≠ .unconf ∧ (s.outbits.toNat < 1 ∨ s.engine.stateBits < s.outbits.toNat)
        ∧ t = s.recordError .badOutbits)
    ∨ (s.phase ≠ .unconf ∧ 1 ≤ s.outbits.toNat ∧ s.outbits.toNat ≤ s.engine.stateBits
        ∧ t = { s with dg := s.digest, w := s.lastSched s.padBlocks, phase := .finalized }) := by
  unfold execFinal at h
  split at h
  · exact .inl ⟨‹_›, by simpa using h.symm⟩
  split at h
  · exact .inr (.inl ⟨‹_›, ‹_›, by simpa using h.symm⟩)
  · exact .inr (.inr ⟨‹_›, by omega, by omega, by simpa using h.symm⟩)

/-- COMPRESS: a refusal, or one block run. -/
theorem execCompress_cases {s t : State} (h : execCompress s = .next t) :
    (s.phase = .unconf ∧ t = s.recordError .noMode)
    ∨ (s.phase ≠ .unconf ∧ t = s.runBlock s.block) := by
  unfold execCompress at h
  split at h
  · exact .inl ⟨‹_›, by simpa using h.symm⟩
  · exact .inr ⟨‹_›, by simpa using h.symm⟩

/-- EXPAND: a refusal, or the schedule written. -/
theorem execExpand_cases {s t : State} (h : execExpand s = .next t) :
    (s.phase = .unconf ∧ t = s.recordError .noMode)
    ∨ (s.phase ≠ .unconf ∧ t = { s with w := s.engine.schedArray s.block }) := by
  unfold execExpand at h
  split at h
  · exact .inl ⟨‹_›, by simpa using h.symm⟩
  · exact .inr ⟨‹_›, by simpa using h.symm⟩

/-! ## Statements in order -/

@[simp] theorem andThen_next (s : State) (k : State → Result) : andThen (.next s) k = k s := rfl

theorem andThen_assoc (r : Result) (k l : State → Result) :
    andThen (andThen r k) l = andThen r fun s => andThen (k s) l := by cases r <;> rfl

@[simp] theorem runEvents_nil (s : State) : runEvents [] s = .next s := rfl

@[simp] theorem runEvents_cons (e : PortEvent) (es : List PortEvent) (s : State) :
    runEvents (e :: es) s = andThen (s.perform e) (runEvents es) := rfl

/-- Statements one list after another. -/
theorem runEvents_append (xs ys : List PortEvent) (s : State) :
    runEvents (xs ++ ys) s = andThen (runEvents xs s) (runEvents ys) := by
  induction xs generalizing s with
  | nil => rfl
  | cons x xs ih =>
    simp only [List.cons_append, runEvents_cons, andThen_assoc]
    congr 1
    exact funext ih

/-- A statement that writes CMD issues its word. -/
@[simp] theorem State.perform_wr_cmd (s : State) (v : Word32) : s.perform (wr .cmd v) = s.issue v := rfl

/-- Groups of four bytes, then the rest. -/
@[simp] theorem feed_nil : feed [] = [] := rfl

@[simp] theorem feed_four (b0 b1 b2 b3 : Byte) (rest : List Byte) :
    feed (b0 :: b1 :: b2 :: b3 :: rest) = feedGroup [b0, b1, b2, b3] ++ feed rest := by
  cases rest <;> rfl

end Sys2Proof.Machine
end

