-- ==== Sys2Proof/Laws/PerInstr.lean ====
section
/-! SUPPORT. Per command: its encoding sets no reserved bit and has an opcode of the map. -/

open Sys2Proof

/-- What every command's word has: RSV = 0 (30_encoding.md R91) and an assigned opcode (R93). -/
def Sys2Proof.Laws.EncodeFields.Statement (i : Instr) : Prop :=
  fieldRsv (encode i) = 0 ∧ opcodeForm (fieldOpc (encode i)) ≠ none

theorem Sys2Proof.Laws.EncodeFields.init (m : Mode) : Sys2Proof.Laws.EncodeFields.Statement (.init m) :=
  ⟨fieldRsv_commandWord _ _ _, by rw [encode, fieldOpc_commandWord]; simp [opcodeForm]⟩

theorem Sys2Proof.Laws.EncodeFields.initk (m : Mode) : Sys2Proof.Laws.EncodeFields.Statement (.initk m) :=
  ⟨fieldRsv_commandWord _ _ _, by rw [encode, fieldOpc_commandWord]; simp [opcodeForm]⟩

theorem Sys2Proof.Laws.EncodeFields.clrerr : Sys2Proof.Laws.EncodeFields.Statement .clrerr :=
  ⟨fieldRsv_commandWord _ _ _, by rw [encode, fieldOpc_commandWord]; simp [opcodeForm]⟩

theorem Sys2Proof.Laws.EncodeFields.absorb (n : BitVec 4) : Sys2Proof.Laws.EncodeFields.Statement (.absorb n) :=
  ⟨fieldRsv_commandWord _ _ _, by rw [encode, fieldOpc_commandWord]; simp [opcodeForm]⟩

theorem Sys2Proof.Laws.EncodeFields.absorbbits (n : BitVec 4) : Sys2Proof.Laws.EncodeFields.Statement (.absorbbits n) :=
  ⟨fieldRsv_commandWord _ _ _, by rw [encode, fieldOpc_commandWord]; simp [opcodeForm]⟩

theorem Sys2Proof.Laws.EncodeFields.final : Sys2Proof.Laws.EncodeFields.Statement .final :=
  ⟨fieldRsv_commandWord _ _ _, by rw [encode, fieldOpc_commandWord]; simp [opcodeForm]⟩

theorem Sys2Proof.Laws.EncodeFields.compress : Sys2Proof.Laws.EncodeFields.Statement .compress :=
  ⟨fieldRsv_commandWord _ _ _, by rw [encode, fieldOpc_commandWord]; simp [opcodeForm]⟩

theorem Sys2Proof.Laws.EncodeFields.expand : Sys2Proof.Laws.EncodeFields.Statement .expand :=
  ⟨fieldRsv_commandWord _ _ _, by rw [encode, fieldOpc_commandWord]; simp [opcodeForm]⟩

theorem Sys2Proof.Laws.EncodeFields.wadd (w : Width) : Sys2Proof.Laws.EncodeFields.Statement (.wadd w) :=
  ⟨fieldRsv_commandWord _ _ _, by rw [encode, fieldOpc_commandWord]; simp [opcodeForm]⟩

theorem Sys2Proof.Laws.EncodeFields.cadd (w : Width) : Sys2Proof.Laws.EncodeFields.Statement (.cadd w) :=
  ⟨fieldRsv_commandWord _ _ _, by rw [encode, fieldOpc_commandWord]; simp [opcodeForm]⟩

theorem Sys2Proof.Laws.EncodeFields.wsub (w : Width) : Sys2Proof.Laws.EncodeFields.Statement (.wsub w) :=
  ⟨fieldRsv_commandWord _ _ _, by rw [encode, fieldOpc_commandWord]; simp [opcodeForm]⟩

theorem Sys2Proof.Laws.EncodeFields.bsub (w : Width) : Sys2Proof.Laws.EncodeFields.Statement (.bsub w) :=
  ⟨fieldRsv_commandWord _ _ _, by rw [encode, fieldOpc_commandWord]; simp [opcodeForm]⟩

theorem Sys2Proof.Laws.EncodeFields.cmul (w : Width) : Sys2Proof.Laws.EncodeFields.Statement (.cmul w) :=
  ⟨fieldRsv_commandWord _ _ _, by rw [encode, fieldOpc_commandWord]; simp [opcodeForm]⟩

theorem Sys2Proof.Laws.EncodeFields.rotl (w : Width) : Sys2Proof.Laws.EncodeFields.Statement (.rotl w) :=
  ⟨fieldRsv_commandWord _ _ _, by rw [encode, fieldOpc_commandWord]; simp [opcodeForm]⟩

theorem Sys2Proof.Laws.EncodeFields.rotr (w : Width) : Sys2Proof.Laws.EncodeFields.Statement (.rotr w) :=
  ⟨fieldRsv_commandWord _ _ _, by rw [encode, fieldOpc_commandWord]; simp [opcodeForm]⟩

theorem Sys2Proof.Laws.EncodeFields.shl (w : Width) : Sys2Proof.Laws.EncodeFields.Statement (.shl w) :=
  ⟨fieldRsv_commandWord _ _ _, by rw [encode, fieldOpc_commandWord]; simp [opcodeForm]⟩

theorem Sys2Proof.Laws.EncodeFields.shr (w : Width) : Sys2Proof.Laws.EncodeFields.Statement (.shr w) :=
  ⟨fieldRsv_commandWord _ _ _, by rw [encode, fieldOpc_commandWord]; simp [opcodeForm]⟩

theorem Sys2Proof.Laws.EncodeFields.bswap (w : Width) : Sys2Proof.Laws.EncodeFields.Statement (.bswap w) :=
  ⟨fieldRsv_commandWord _ _ _, by rw [encode, fieldOpc_commandWord]; simp [opcodeForm]⟩

theorem Sys2Proof.Laws.EncodeFields.and (w : Width) : Sys2Proof.Laws.EncodeFields.Statement (.and w) :=
  ⟨fieldRsv_commandWord _ _ _, by rw [encode, fieldOpc_commandWord]; simp [opcodeForm]⟩

theorem Sys2Proof.Laws.EncodeFields.or (w : Width) : Sys2Proof.Laws.EncodeFields.Statement (.or w) :=
  ⟨fieldRsv_commandWord _ _ _, by rw [encode, fieldOpc_commandWord]; simp [opcodeForm]⟩

theorem Sys2Proof.Laws.EncodeFields.xor (w : Width) : Sys2Proof.Laws.EncodeFields.Statement (.xor w) :=
  ⟨fieldRsv_commandWord _ _ _, by rw [encode, fieldOpc_commandWord]; simp [opcodeForm]⟩

theorem Sys2Proof.Laws.EncodeFields.not (w : Width) : Sys2Proof.Laws.EncodeFields.Statement (.not w) :=
  ⟨fieldRsv_commandWord _ _ _, by rw [encode, fieldOpc_commandWord]; simp [opcodeForm]⟩
end

