-- ==== Sys2Proof/Laws/Platform.lean ====
section
/-! SUPPORT. What an event can do to a platform, and that it keeps its number of instances. -/

namespace Sys2Proof

/-- A platform has at least one instance (00_scope.md R5). -/
theorem PlatformConfig.nCores_pos (c : PlatformConfig) : 1 ≤ c.nCores := by
  simp [PlatformConfig.nCores, PlatformConfig.bases]

namespace Machine

/-- What an event at instance `k` can do: instance `k` takes it, and nothing else changes. -/
theorem Platform.performAt_cases {p q : Platform} {k : Nat} {e : PortEvent}
    (h : p.performAt k e = some q) :
    ∃ s t, p.cores[k]? = some s ∧ s.perform e = .next t ∧ q = { p with cores := p.cores.set k t } := by
  unfold Platform.performAt at h
  split at h
  · cases h
  split at h
  · exact ⟨_, _, ‹_›, ‹_›, by simpa using h.symm⟩
  · cases h
  · cases h

theorem Platform.reset_wf (config : PlatformConfig) : (Platform.reset config).wf := by
  simp [Platform.wf, Platform.reset]

theorem Platform.performAt_wf {p q : Platform} {k : Nat} {e : PortEvent} (hp : p.wf)
    (h : p.performAt k e = some q) : q.wf := by
  obtain ⟨s, t, -, -, rfl⟩ := Platform.performAt_cases h
  simpa [Platform.wf] using hp

theorem Platform.resetAll_wf {p : Platform} (hp : p.wf) : p.resetAll.wf := by
  simpa [Platform.wf, Platform.resetAll] using hp

/-- After a reset of the whole platform every instance is at reset. -/
theorem Platform.resetAll_getElem? (p : Platform) (k : Nat) :
    p.resetAll.cores[k]? = (p.cores[k]?).map State.afterReset := by
  simp [Platform.resetAll]

end Machine

end Sys2Proof
end

