-- ==== Sys2Proof/Tests/Slice0.lean ====
section
/-! SUPPORT. The model's own tests. Expected values come from spec/95_test_vectors.md (its section is named
at each group) or are worked out by hand from the rule named; the witnesses show that the hypotheses of each
statement in Certificates/Slice0/Obligations.lean can be met, clause by clause. -/

open Sys2Proof Sys2Proof.Machine Sys2Proof.Claims

namespace Sys2Proof.Tests

/-! ## Helpers -/

/-- A state with a message of mode `m` begun and nothing absorbed. -/
def begun (m : Mode) : State := { State.reset with phase := .empty, mode := m }

/-- A state with the ALU operands given. -/
def operands (a b c : Word128) : State := { State.reset with a := a, b := b, c := c }

/-- The state an outcome gives; the reset state if it stopped. -/
def stateOf (x : Result) : State :=
  match x with
  | .next t => t
  | .fault _ => State.reset
  | .refused _ => State.reset

/-- The outcome is a next state with this property. -/
def nextWith (x : Result) (p : State → Bool) : Bool :=
  match x with
  | .next t => p t
  | .fault _ => false
  | .refused _ => false

/-- The step's outcome on a state whose only pending event is `e`. -/
def stepOn (s : State) (e : PortEvent) : Result := step { s with pending := [e] }

/-! ## Well-formedness: ill-formed counts are refused by the check (30_encoding.md R98) -/

theorem test_absorb_5_illFormed : (Instr.absorb 5).wellFormed = false := by decide
theorem test_absorb_4_wellFormed : (Instr.absorb 4).wellFormed = true := by decide
theorem test_absorbbits_8_illFormed : (Instr.absorbbits 8).wellFormed = false := by decide
theorem test_absorbbits_7_wellFormed : (Instr.absorbbits 7).wellFormed = true := by decide

/-! ## Decoding: one word of every command, its bits written out from 30_encoding.md R91, R93, R96, R97
(RSV, F2, F1, OPC) -/

theorem test_decode_init_sha512_256 :
    decode 0b0000000000000000_0000_1001_00000001 = .ok (.init .sha512_256) := by decide
theorem test_decode_initk_sha0 :
    decode 0b0000000000000000_0000_0010_00000010 = .ok (.initk .sha0) := by decide
theorem test_decode_clrerr :
    decode 0b0000000000000000_0000_0000_00001111 = .ok (.clrerr) := by decide
theorem test_decode_absorb_4 :
    decode 0b0000000000000000_0100_0000_00010000 = .ok (.absorb 4) := by decide
theorem test_decode_absorbbits_7 :
    decode 0b0000000000000000_0111_0000_00010001 = .ok (.absorbbits 7) := by decide
theorem test_decode_final :
    decode 0b0000000000000000_0000_0000_00010010 = .ok (.final) := by decide
theorem test_decode_compress :
    decode 0b0000000000000000_0000_0000_00100000 = .ok (.compress) := by decide
theorem test_decode_expand :
    decode 0b0000000000000000_0000_0000_00100001 = .ok (.expand) := by decide
theorem test_decode_wadd_w8 :
    decode 0b0000000000000000_0000_0000_00110000 = .ok (.wadd .w8) := by decide
theorem test_decode_cadd_w16 :
    decode 0b0000000000000000_0000_0001_00110001 = .ok (.cadd .w16) := by decide
theorem test_decode_wsub_w32 :
    decode 0b0000000000000000_0000_0010_00110010 = .ok (.wsub .w32) := by decide
theorem test_decode_bsub_w64 :
    decode 0b0000000000000000_0000_0011_00110011 = .ok (.bsub .w64) := by decide
theorem test_decode_cmul_w128 :
    decode 0b0000000000000000_0000_0100_00110100 = .ok (.cmul .w128) := by decide
theorem test_decode_rotl_w8 :
    decode 0b0000000000000000_0000_0000_00110101 = .ok (.rotl .w8) := by decide
theorem test_decode_rotr_w16 :
    decode 0b0000000000000000_0000_0001_00110110 = .ok (.rotr .w16) := by decide
theorem test_decode_shl_w32 :
    decode 0b0000000000000000_0000_0010_00110111 = .ok (.shl .w32) := by decide
theorem test_decode_shr_w64 :
    decode 0b0000000000000000_0000_0011_00111000 = .ok (.shr .w64) := by decide
theorem test_decode_bswap_w128 :
    decode 0b0000000000000000_0000_0100_00111001 = .ok (.bswap .w128) := by decide
theorem test_decode_and_w8 :
    decode 0b0000000000000000_0000_0000_00111010 = .ok (.and .w8) := by decide
theorem test_decode_or_w16 :
    decode 0b0000000000000000_0000_0001_00111011 = .ok (.or .w16) := by decide
theorem test_decode_xor_w32 :
    decode 0b0000000000000000_0000_0010_00111100 = .ok (.xor .w32) := by decide
theorem test_decode_not_w64 :
    decode 0b0000000000000000_0000_0011_00111101 = .ok (.not .w64) := by decide

/-- The host's view of the same words: 16 bits of the table, the rest 0. -/
theorem test_decodeTableWord_absorb_4 : decodeTableWord 32 0x4010 = some (.absorb 4) := by decide
theorem test_decodeTableWord_reserved : decodeTableWord 32 0x0A01 = none := by decide

/-! ## Refused words (95_test_vectors.md 2.7) -/

theorem test_refuse_reserved_opcode_before_rsv : decode 0xffff0000 = .error .illegalOpcode := by decide
theorem test_refuse_final_rsv : decode 0x00010012 = .error .reservedField := by decide
theorem test_refuse_init_f2 : decode 0x00001001 = .error .reservedField := by decide
theorem test_refuse_init_mode_10 : decode 0x00000a01 = .error .badMode := by decide
theorem test_refuse_initk_mode_15 : decode 0x00000f02 = .error .badMode := by decide
theorem test_refuse_wadd_width_5 : decode 0x00000530 = .error .badWidth := by decide
theorem test_refuse_wadd_f2 : decode 0x00001230 = .error .reservedField := by decide
theorem test_refuse_absorb_5 : decode 0x00005010 = .error .badCount := by decide
theorem test_refuse_absorb_f1_before_count : decode 0x00009110 = .error .reservedField := by decide
theorem test_refuse_absorbbits_8 : decode 0x00008011 = .error .badCount := by decide
theorem test_refuse_opcode_3e : decode 0x0000003e = .error .illegalOpcode := by decide
theorem test_refuse_final_f1 : decode 0x00000112 = .error .reservedField := by decide
theorem test_refuse_absorbbits_f1 : decode 0x00000111 = .error .reservedField := by decide

/-! ## The register map and the port (95_test_vectors.md 2.8) -/

theorem test_read_id : State.reset.busRead 0x000 = 0x53480007 := by decide
/-- STATUS with every field at its highest code: 10_state.md R23, R24, 60_exceptions.md R340. -/
theorem test_status_codes :
    { State.reset with
        phase := .finalized, err := true, errcode := some .badOutbits, mode := .sha512_256, bitpend := true,
        custom := true, cf := true }.busRead 0x002 = 0x1399C := by decide
theorem test_map_h7_hi : portReg 0x04F = some (.h 7 1) := by decide
theorem test_map_w79_lo : portReg 0x19E = some (.w 79 0) := by decide
theorem test_map_reserved : portReg 0x1A0 = none := by decide
theorem test_outbits_keeps_ten_bits :
    nextWith (stepOn State.reset (.write 0x003 0xffffffff)) (fun t => t.busRead 0x003 == 0x3ff) = true := by
  decide
theorem test_write_dg_ignored :
    nextWith (stepOn State.reset (.write 0x0C0 1)) (fun t => t.busRead 0x0C0 == 0) = true := by
  decide
theorem test_write_h7_hi :
    nextWith (stepOn State.reset (.write 0x04F 0x89abcdef))
      (fun t => t.busRead 0x04F == 0x89abcdef && t.busRead 0x04E == 0) = true := by
  decide
theorem test_write_blk_lanes :
    nextWith (stepOn State.reset (.write 0x09F 0x44332211))
      (fun t => blkByte t 124 == 0x11 && blkByte t 127 == 0x44) = true := by
  decide
theorem test_read_is_logged :
    nextWith (stepOn State.reset (.read 0x000)) (fun t => t.responses == [0x53480007]) = true := by
  decide
theorem test_withFetchWord_runs :
    step (State.reset.withFetchWord 32 0x501) = exec (.init .sha256) State.reset := by rfl

/-! ## Control commands (95_test_vectors.md 2.1, 2.7) -/

theorem test_init_sha256 :
    nextWith (exec (.init .sha256) State.reset)
      (fun t => t.busRead 0x002 == 0x501 && t.h[7] == 0x5be0cd19 && t.outbits == 256) = true := by
  decide
theorem test_init_md4_clears_high_words :
    nextWith (exec (.init .md4) { State.reset with h := Vector.replicate 8 1 })
      (fun t => t.h[0] == 0x67452301 && t.h[4] == 0) = true := by
  decide
theorem test_initk_keeps_outbits :
    nextWith (exec (.initk .sha512) { State.reset with outbits := 100 })
      (fun t => t.busRead 0x002 == 0x2701 && t.outbits == 100) = true := by
  decide
theorem test_refused_init_mode_12 :
    nextWith (stepOn State.reset (.write 0x001 0x00000C01)) (fun t => t.busRead 0x002 == 0x38) = true := by
  decide
theorem test_first_error_is_kept :
    nextWith (stepOn { State.reset with err := true, errcode := some .badMode } (.write 0x001 0x00010C01))
      (fun t => t.busRead 0x002 == 0x38) = true := by
  decide
theorem test_clrerr :
    nextWith (exec .clrerr { State.reset with err := true, errcode := some .badMode })
      (fun t => t.busRead 0x002 == 0) = true := by
  decide

/-! ## Streaming commands (95_test_vectors.md 1.1, 2.2) -/

theorem test_absorb_3 :
    nextWith (exec (.absorb 3) { begun .sha256 with din := 0x00636261 })
      (fun t => t.busRead 0x002 == 0x502 && t.totlen == 24 && t.busRead 0x080 == 0x00636261) = true := by
  decide +kernel
/-- Block full after the second of four bytes: md5 of 62 bytes buffered; TOTLEN 528, BUFBITS 16. -/
theorem test_absorb_across_a_block :
    nextWith (exec (.absorb 4) { begun .md5 with din := 0x44332211, totlen := 496 })
      (fun t => t.busRead 0x005 == 16 && blkByte t 63 == 0x22 && blkByte t 0 == 0x33) = true := by
  decide +kernel
theorem test_absorbbits_3 :
    nextWith (exec (.absorbbits 3) { begun .sha512 with din := 0xB0 })
      (fun t => t.busRead 0x002 == 0x1702 && t.totlen == 3 && blkByte t 0 == 0xa0) = true := by
  decide +kernel
theorem test_absorbbits_refused_in_md5 :
    nextWith (exec (.absorbbits 1) (begun .md5)) (fun t => t.busRead 0x002 == 0x179) = true := by
  decide
theorem test_final_md4_empty :
    nextWith (exec .final (stateOf (exec (.init .md4) State.reset)))
      (fun t => beVal (t.dg.toList.take 16) == 0x31d6cfe0d16ae931b73c59d7e0c089c0) = true := by
  decide +kernel
theorem test_final_refuses_outbits_161 :
    nextWith (exec .final { begun .sha1 with outbits := 161 })
      (fun t => t.busRead 0x002 == 0x399) = true := by
  decide

/-! ## Block engine (95_test_vectors.md 2.3) -/

theorem test_compress_sha1_zero_block :
    nextWith (exec .compress (stateOf (exec (.init .sha1) State.reset)))
      (fun t => t.h[0] == 0x92b404e5 && t.h[4] == 0x09f73a93) = true := by
  decide +kernel
theorem test_compress_refused :
    nextWith (exec .compress State.reset) (fun t => t.busRead 0x002 == 0x68) = true := by
  decide
theorem test_expand_md4 :
    nextWith (exec .expand { begun .md4 with blk := withLanes (n := 32) (Vector.replicate 128 0) 15 0xdeadbeef })
      (fun t => wWord t 47 == 0xdeadbeef && wWord t 48 == 0 && wWord t 15 == 0xdeadbeef) = true := by
  decide
theorem test_expand_sha256_abc :
    nextWith (exec .expand { begun .sha256 with blk := withLanes (n := 32) (Vector.replicate 128 0) 0 0x00636261 })
      (fun t => wWord t 0 == 0x61626300 && wWord t 16 == 0x61626300) = true := by
  decide

/-! ## Word ALU (95_test_vectors.md 2.6) -/

theorem test_wadd_w32 :
    nextWith (exec (.wadd .w32) (operands 0x6a09e667 0xbb67ae85 0x0)) (fun t => t.r == 0x257194ec && t.cf) = true := by
  decide
theorem test_wadd_w128 :
    nextWith (exec (.wadd .w128) (operands 0xffffffffffffffffffffffffffffffff 0xffffffffffffffffffffffffffffffff 0x0)) (fun t => t.r == 0xfffffffffffffffffffffffffffffffe && t.cf) = true := by
  decide
theorem test_cadd_w64 :
    nextWith (exec (.cadd .w64) (operands 0xffffffffffffffff 0x0 0x1)) (fun t => t.r == 0 && t.cf) = true := by
  decide
theorem test_cadd_w32_bit_zero :
    nextWith (exec (.cadd .w32) (operands 0x5 0x6 0x2)) (fun t => t.r == 0xb && !t.cf) = true := by
  decide
theorem test_wsub_w8 :
    nextWith (exec (.wsub .w8) (operands 0x5 0x7 0x0)) (fun t => t.r == 0xfe && t.cf) = true := by
  decide
theorem test_wsub_w32_equal :
    nextWith (exec (.wsub .w32) (operands 0x7 0x7 0x0)) (fun t => t.r == 0 && !t.cf) = true := by
  decide
theorem test_bsub_w16 :
    nextWith (exec (.bsub .w16) (operands 0x0 0xffff 0x1)) (fun t => t.r == 0 && t.cf) = true := by
  decide
theorem test_bsub_w64 :
    nextWith (exec (.bsub .w64) (operands 0x3 0x3 0x1)) (fun t => t.r == 0xffffffffffffffff && t.cf) = true := by
  decide
theorem test_cmul_w32 :
    nextWith (exec (.cmul .w32) (operands 0xffffffff 0x2 0x5)) (fun t => t.r == 3 && t.rh == 2) = true := by
  decide
theorem test_cmul_w16_ignores_high_bits :
    nextWith (exec (.cmul .w16) (operands 0x0 0x1234 0x10007)) (fun t => t.r == 7 && t.rh == 0) = true := by
  decide
theorem test_rotl_w8_amount_mod_8 :
    nextWith (exec (.rotl .w8) (operands 0x81 0x10b 0x0)) (fun t => t.r == 0x0c) = true := by
  decide
theorem test_rotl_w32 :
    nextWith (exec (.rotl .w32) (operands 0x12345678 0x24 0x0)) (fun t => t.r == 0x23456781) = true := by
  decide
theorem test_rotr_w32 :
    nextWith (exec (.rotr .w32) (operands 0x6a09e667 0x2 0x0)) (fun t => t.r == 0xda827999) = true := by
  decide
theorem test_rotr_w128 :
    nextWith (exec (.rotr .w128) (operands 0x1 0x1 0x0)) (fun t => t.r == 0x80000000000000000000000000000000) = true := by
  decide
theorem test_shl_w8 :
    nextWith (exec (.shl .w8) (operands 0x81 0x1 0x0)) (fun t => t.r == 2) = true := by
  decide
theorem test_shl_w32_by_32 :
    nextWith (exec (.shl .w32) (operands 0x12345678 0x20 0x0)) (fun t => t.r == 0x12345678) = true := by
  decide
theorem test_shr_w32 :
    nextWith (exec (.shr .w32) (operands 0x6a09e667 0x3 0x0)) (fun t => t.r == 0x0d413ccc) = true := by
  decide
theorem test_shr_w16_amount_mod_16 :
    nextWith (exec (.shr .w16) (operands 0x8000 0x11 0x0)) (fun t => t.r == 0x4000) = true := by
  decide
theorem test_bswap_w64 :
    nextWith (exec (.bswap .w64) (operands 0x123456789abcdef 0x0 0x0)) (fun t => t.r == 0xefcdab8967452301) = true := by
  decide
theorem test_bswap_w128 :
    nextWith (exec (.bswap .w128) (operands 0x102030405060708090a0b0c0d0e0f 0x0 0x0)) (fun t => t.r == 0x0f0e0d0c0b0a09080706050403020100) = true := by
  decide
theorem test_and_w16 :
    nextWith (exec (.and .w16) (operands 0xf0f0 0xff00 0x0)) (fun t => t.r == 0xf000) = true := by
  decide
theorem test_or_w16 :
    nextWith (exec (.or .w16) (operands 0xf0f0 0xff00 0x0)) (fun t => t.r == 0xfff0) = true := by
  decide
theorem test_xor_w64 :
    nextWith (exec (.xor .w64) (operands 0x6a09e667f3bcc908 0xa5a5a5a5a5a5a5a5 0x0)) (fun t => t.r == 0xcfac43c256196cad) = true := by
  decide
theorem test_not_w8 :
    nextWith (exec (.not .w8) (operands 0xf 0x0 0x0)) (fun t => t.r == 0xf0) = true := by
  decide
theorem test_not_w128 :
    nextWith (exec (.not .w128) (operands 0x0 0x0 0x0)) (fun t => t.r == 0xffffffffffffffffffffffffffffffff) = true := by
  decide

/-! ## The SHA σ functions on single bits: 44_sha_engines.md R256 -/

theorem test_sha256BigSigma0_1 : sha256BigSigma0 0x00000001 = 0x40080400 := by decide
theorem test_sha256BigSigma1_1 : sha256BigSigma1 0x00000001 = 0x04200080 := by decide
theorem test_sha256Sigma0_1 : sha256Sigma0 0x00000001 = 0x02004000 := by decide
theorem test_sha256Sigma1_1 : sha256Sigma1 0x00000001 = 0x0000a000 := by decide
theorem test_sha256Sigma0_80000000 : sha256Sigma0 0x80000000 = 0x11002000 := by decide
theorem test_sha256Sigma1_80000000 : sha256Sigma1 0x80000000 = 0x00205000 := by decide

/-! ## Witnesses: the hypotheses of each statement, met -/

/-- A state with one pending event. -/
def pendingOn (s : State) (e : PortEvent) : State := { s with pending := [e] }

theorem witness_DecodeOfEncodeIsTheCommand :
    (Instr.absorb 4).wellFormed = true ∧ (Instr.absorbbits 7).wellFormed = true
      ∧ (Instr.initk .sha512_256).wellFormed = true ∧ (Instr.not .w128).wellFormed = true := by decide

theorem witness_AcceptedWordIsItsEncoding :
    decode 0x00004010 = .ok (.absorb 4) ∧ decode 0x0000043D = .ok (.not .w128) := by decide

theorem witness_StepPerformsTheOldestAccess :
    State.reset.pending = [] ∧ (pendingOn State.reset (.read 0)).pending = .read 0 :: [] := by decide

theorem witness_StepRunsTheDecodedCommand :
    (pendingOn State.reset (.write 0x001 0x501)).pending = .write 0x001 0x501 :: []
      ∧ decode 0x501 = .ok (.init .sha256) := by decide

theorem witness_RefusedWordOnlyRecordsItsCode :
    (pendingOn State.reset (.write 0x001 0xC01)).pending = .write 0x001 0xC01 :: []
      ∧ decode 0xC01 = .error .badMode := by decide

theorem witness_ReadReturnsTheRegister :
    (pendingOn State.reset (.read 0x3FF)).pending = .read 0x3FF :: [] := by decide

theorem witness_ResetOverwritesAllState :
    (pendingOn { begun .sha512 with outbits := 7 } .reset).pending = .reset :: [] := by decide

theorem witness_RegisterMapIsOneToOne :
    portReg 0x000 = some .id ∧ portReg 0x19F = some (.w 79 1) ∧ portReg 0x0CF = some (.dg 15) := by decide

theorem witness_WriteChangesOnlyItsWord :
    isReadWrite .outbits = true ∧ isReadWrite .din = true ∧ isReadWrite (.a 3) = true
      ∧ isReadWrite (.h 7 1) = true ∧ isReadWrite (.blk 31) = true
      ∧ (0x0FF : WordOffset) ≠ (PortReg.blk 31).offset := by decide

theorem witness_ReadOnlyAndReservedWritesAreIgnored :
    (isReadWrite .id = false ∧ PortReg.id ≠ .cmd) ∧ (isReadWrite (.w 79 1) = false ∧ PortReg.w 79 1 ≠ .cmd)
      ∧ portReg 0x006 = none ∧ portReg 0x1A0 = none ∧ portReg 0x3FF = none := by decide

/-- The last byte of a word and the first of the next. -/
theorem witness_BlockLanesAreLittleEndian :
    nextWith (State.reset.busWrite 0x080 0x44332211)
      (fun t => blkByte t 3 == 0x44 && blkByte t 4 == 0 && blkByte t 0 == 0x11) = true := by decide

theorem witness_StepKeepsTheBoundaryInvariants :
    let s := pendingOn { begun .sha512 with din := 0xB0 } (.write 0x001 0x3011)
    s.Boundary ∧ nextWith (step s) (fun t => t.bitpend && t.totlen == 3) = true := by decide

theorem witness_PhaseFollowsTheTransitionTable :
    nextWith (exec (.init .md5) (begun .sha1)) (fun t => t.phase == .empty) = true
      ∧ nextWith (exec (.absorb 4) State.reset) (fun t => t.phase == .unconf) = true
      ∧ nextWith (exec (.absorb 4) { begun .sha512 with bitpend := true, phase := .finalized })
          (fun t => t.phase == .finalized) = true
      ∧ nextWith (exec (.absorb 0) (begun .sha256)) (fun t => t.phase == .empty) = true
      ∧ nextWith (exec (.absorb 1) (begun .sha256)) (fun t => t.phase == .accum) = true
      ∧ nextWith (exec (.absorbbits 7) (begun .sha256)) (fun t => t.phase == .empty) = true
      ∧ nextWith (exec (.absorbbits 7) (begun .sha384)) (fun t => t.phase == .accum) = true
      ∧ nextWith (exec .final { begun .md4 with outbits := 0 }) (fun t => t.phase == .empty) = true
      ∧ nextWith (exec .final { begun .md4 with outbits := 129 }) (fun t => t.phase == .empty) = true
      ∧ nextWith (exec .final { begun .md4 with outbits := 128 }) (fun t => t.phase == .finalized) = true := by
  decide

theorem witness_StateChecksRefuseInOrder :
    ((4 : BitVec 4).toNat ≤ 4 ∧ (7 : BitVec 4).toNat ≤ 7)
      ∧ State.reset.phase = .unconf
      ∧ (let s := { begun .sha384 with bitpend := true };
          s.phase ≠ .unconf ∧ isSha512Mode s.mode = true ∧ s.bitpend = true)
      ∧ ((begun .sha256).phase ≠ .unconf ∧ isSha512Mode (begun .sha256).mode = false)
      ∧ (let s := { begun .sha1 with outbits := 161 };
          s.phase ≠ .unconf ∧ stateBitsOf s.mode < s.outbits.toNat)
      ∧ ((begun .sha1).phase ≠ .unconf ∧ (begun .sha1).outbits = 0) := by decide

theorem witness_ErrorRecordIsSticky :
    let s := { State.reset with err := true, errcode := some .noMode }
    nextWith (step (pendingOn s (.write 0x001 0xC01))) (fun t => t.err && t.errcode == some .noMode) = true
      ∧ nextWith (step (pendingOn s (.write 0x001 0x00F))) (fun t => !t.err && t.errcode == none) = true
      ∧ nextWith (step (pendingOn s .reset)) (fun t => !t.err) = true := by decide

theorem witness_OnlyFinalWritesTheDigest :
    (let s := pendingOn { begun .md4 with outbits := 128 } (.write 0x001 0x012);
      nextWith (step s) (fun t => t.dg != s.dg) = true)
      ∧ (let s := pendingOn { State.reset with dg := Vector.replicate 64 1 } .reset;
        nextWith (step s) (fun t => t.dg != s.dg) = true) := by decide +kernel

theorem witness_RegistersHaveTheirWriters :
    exec .clrerr State.reset = .next State.reset ∧ writesCf (.cmul .w8) = false
      ∧ (∀ w, Instr.clrerr ≠ .cmul w) ∧ (∀ m, Instr.initk .md4 ≠ .init m) ∧ isAlu .final = false :=
  ⟨rfl, rfl, fun w => by cases w <;> decide, fun m => by cases m <;> decide, rfl⟩

/-- Two such states, a command that keeps them apart, one that writes both alike, and one refused in states
with the same ERR. -/
theorem witness_CommandsReadNoOutputAndNoRecord :
    let u := { begun .md4 with err := true, errcode := some .badMode, cf := true, r := 1, custom := true }
    essence (begun .md4) = essence u ∧ begun .md4 ≠ u
      ∧ nextWith (exec (.absorb 4) (begun .md4)) (fun t => t.phase == .accum && !t.cf) = true
      ∧ nextWith (exec (.wadd .w8) u) (fun t => !t.cf && t.r == 0) = true
      ∧ State.reset.err = { State.reset with r := 1 }.err
      ∧ nextWith (exec .final { State.reset with r := 1 }) (fun t => t.errcode == some .noMode) = true := by
  decide +kernel

theorem witness_AluCommandsLeaveTheRestOfTheWindow :
    isAlu (.not .w128) = true ∧ (∀ k, portReg 0x010 ≠ some (.r k)) ∧ (∀ k, portReg 0x010 ≠ some (.rh k))
      ∧ portReg 0x010 ≠ some .status ∧ portReg 0x01C = some (.r 0) ∧ portReg 0x023 = some (.rh 3) := by
  decide

theorem witness_ZeroLengthAbsorbIsANoOp :
    (begun .sha512).phase ≠ .unconf ∧ (begun .sha512).bitpend = false
      ∧ isSha512Mode (begun .sha512).mode = true := by decide

/-- One state for each branch: the two refusals, the last position that does not fill the block, the block
filled exactly, and filled with three bytes over. -/
theorem witness_AbsorbAppendsItsBytes :
    ((0xFFFF4010 : Word32).toNat % 2 ^ 8 = 0x10 ∧ (4 : BitVec 4).toNat ≤ 4 ∧ (4 : BitVec 4) ≠ 0)
      ∧ State.reset.phase = .unconf ∧ { begun .sha512 with bitpend := true }.bitpend = true
      ∧ (let s := { begun .sha256 with totlen := 472 };
        s.phase ≠ .unconf ∧ s.bitpend = false ∧ s.totlen.toNat % 8 = 0
          ∧ s.totlen.toNat % blockBitsOf s.mode / 8 + (4 : BitVec 4).toNat < blockBitsOf s.mode / 8)
      ∧ (let s := { begun .sha256 with totlen := 480 };
        s.phase ≠ .unconf ∧ s.bitpend = false ∧ s.totlen.toNat % 8 = 0
          ∧ blockBitsOf s.mode / 8 = s.totlen.toNat % blockBitsOf s.mode / 8 + (4 : BitVec 4).toNat)
      ∧ (let s := { begun .sha384 with totlen := 1016 };
        s.phase ≠ .unconf ∧ s.bitpend = false ∧ s.totlen.toNat % 8 = 0
          ∧ blockBitsOf s.mode / 8 + 3 = s.totlen.toNat % blockBitsOf s.mode / 8 + (4 : BitVec 4).toNat) := by
  decide

theorem witness_AbsorbbitsAppendsThePartialByte :
    ((0x8011 : Word32).toNat % 2 ^ 8 = 0x11 ∧ (7 : BitVec 4).toNat ≤ 7 ∧ (1 : BitVec 4) ≠ 0)
      ∧ State.reset.phase = .unconf ∧ isSha512Mode (begun .sha256).mode = false
      ∧ (let s := { begun .sha384 with bitpend := true };
        s.phase ≠ .unconf ∧ isSha512Mode s.mode ≠ false ∧ s.bitpend = true)
      ∧ (begun .sha512_224).phase ≠ .unconf ∧ isSha512Mode (begun .sha512_224).mode ≠ false
      ∧ (begun .sha512_224).bitpend ≠ true := by decide

theorem witness_FinalDeliversTheDigest :
    (0x112 : Word32).toNat % 2 ^ 8 = 0x12 ∧ State.reset.phase = .unconf
      ∧ (let s := begun .md5; s.phase ≠ .unconf ∧ s.outbits = 0)
      ∧ (let s := { begun .md5 with outbits := 129 };
        s.phase ≠ .unconf ∧ stateBitsOf s.mode < s.outbits.toNat)
      ∧ (let s := { begun .md5 with outbits := 1 };
        s.phase ≠ .unconf ∧ ¬(s.outbits = 0 ∨ stateBitsOf s.mode < s.outbits.toNat))
      ∧ (let s := { begun .sha512 with outbits := 512 };
        s.phase ≠ .unconf ∧ ¬(s.outbits = 0 ∨ stateBitsOf s.mode < s.outbits.toNat)) := by decide

/-- A word of each opcode: legal, and at the first reserved code. -/
theorem witness_coded :
    (0x00000901 : Word32).toNat % 2 ^ 8 = 0x01 ∧ f1Of 0x00000901 = 9 ∧ f1Of 0x00000A02 = 10
      ∧ f2Of 0x00001001 = 1 ∧ rsvOf 0x0001000F = 1 ∧ f1Of 0x00000430 = 4 ∧ f1Of 0x0000053D = 5 := by decide

/-- A 3-bit message 101 in a 1024-bit block: 0xb0 first, the length 3 last (95_test_vectors.md 2.2.2). -/
theorem witness_PaddingIsMessageOneZerosLength :
    let padded := (Engine.sha512.pad [0xBF] 3).flatten
    padded.getD 0 0 = 0xb0 ∧ padded.getD 1 0 = 0 ∧ padded.getD 127 0 = 3 ∧ padded.length = 128 := by
  decide +kernel

/-- The bounds where one block becomes two (95_test_vectors.md 2.2.4). -/
theorem witness_PaddingIsTheLeastThatFits :
    (Engine.sha256.pad [] (8 * 55)).length = 1 ∧ (Engine.sha256.pad [] (8 * 56)).length = 2
      ∧ (Engine.sha256.pad [] 447).length = 1 ∧ 447 + 1 + Engine.sha256.lenBits ≤ 1 * Engine.sha256.blockBits
      ∧ (Engine.sha512.pad [] (8 * 111)).length = 1 ∧ (Engine.sha512.pad [] (8 * 112)).length = 2 := by
  decide

theorem witness_LengthAndDigestByteOrders :
    Engine.md5.lenField 0x1122 = [0x22, 0x11, 0, 0, 0, 0, 0, 0]
      ∧ Engine.sha1.lenField 0x1122 = [0, 0, 0, 0, 0, 0, 0x11, 0x22]
      ∧ (Engine.sha512.lenField (2 ^ 64)).getD 7 0 = 1 := by decide

theorem witness_TruncationKeepsTheFirstBits :
    let ones : List Byte := List.replicate 64 0xff
    msgBit (truncDigest ones 20).toList 19 = true ∧ msgBit (truncDigest ones 20).toList 20 = false
      ∧ msgBit (truncDigest ones 512).toList 511 = true := by decide

theorem witness_FinalIsRepeatable :
    let s := { begun .md4 with outbits := 128 }
    s.phase ≠ .unconf ∧ 1 ≤ s.outbits.toNat ∧ s.outbits.toNat ≤ stateBitsOf s.mode
      ∧ nextWith (exec .final s) (fun t => t.phase == .finalized) = true := by decide

theorem witness_StaleBufferBytesReachNoDigest :
    let s := { begun .md4 with outbits := 128, totlen := 8 }
    let blk' := s.blk.set 1 0xff
    (∀ j, j < (s.bufbits + 7) / 8 → blk'.toList.getD j 0 = blkByte s j) ∧ blk' ≠ s.blk
      ∧ nextWith (exec .final s) (fun t => t.phase == .finalized) = true
      ∧ nextWith (exec .final { s with blk := blk' }) (fun t => t.phase == .finalized) = true := by
  decide +kernel

theorem witness_AbsorbIsSplitIndependent :
    (begun .sha256).phase ≠ .unconf ∧ (begun .sha256).bitpend = false := by decide

theorem witness_BlockCommandsRunOneBlock :
    (0x20 : Word32).toNat % 2 ^ 8 = 0x20 ∧ (0x121 : Word32).toNat % 2 ^ 8 = 0x21
      ∧ State.reset.phase = .unconf ∧ (begun .sha1).phase ≠ .unconf
      ∧ (begun .sha1).mode.engine ≠ .sha512 ∧ (4 : Fin 8).val < Engine.sha1.stateWords := by
  decide

theorem witness_EngineReadsOnlyItsStateWords :
    let h : Vector Word64 8 := Vector.replicate 8 1
    let g : Vector Word64 8 := Vector.replicate 8 0x100000001
    h ≠ g ∧ ∀ i : Fin 8, i.val < Engine.sha256.stateWords → (h[i]).setWidth 32 = (g[i]).setWidth 32 := by
  decide

theorem witness_ExpandListsTheMdMessageWords :
    (begun .md4).phase ≠ .unconf ∧ ((begun .md4).mode = .md4 ∨ (begun .md4).mode = .md5)
      ∧ (begun .md5).phase ≠ .unconf ∧ ((begun .md5).mode = .md4 ∨ (begun .md5).mode = .md5) := by decide

theorem witness_ExpandFollowsTheSha1Recurrence :
    (begun .sha0).phase ≠ .unconf ∧ ((begun .sha0).mode = .sha0 ∨ (begun .sha0).mode = .sha1)
      ∧ (begun .sha1).phase ≠ .unconf ∧ ((begun .sha1).mode = .sha0 ∨ (begun .sha1).mode = .sha1) := by decide

theorem witness_ExpandFollowsTheSha256Recurrence :
    (begun .sha224).phase ≠ .unconf ∧ ((begun .sha224).mode = .sha224 ∨ (begun .sha224).mode = .sha256)
      ∧ (begun .sha256).phase ≠ .unconf
      ∧ ((begun .sha256).mode = .sha224 ∨ (begun .sha256).mode = .sha256) := by decide

theorem witness_ExpandFollowsTheSha512Recurrence :
    (begun .sha384).phase ≠ .unconf ∧ isSha512Mode (begun .sha384).mode = true := by decide

/-- The counts 0, 1 and 2, and steps of both kinds. -/
theorem witness_BlocksCompressedPerCommand :
    blocksCompressed (.absorb 4) { begun .sha256 with totlen := 480 } = 1
      ∧ blocksCompressed (.absorb 3) { begun .sha256 with totlen := 480 } = 0
      ∧ blocksCompressed .compress (begun .sha256) = 1 ∧ blocksCompressed .compress State.reset = 0
      ∧ blocksCompressed .final { begun .sha256 with outbits := 256, totlen := 448 } = 2
      ∧ nextWith (exec .compress (begun .sha256)) (fun t => t.phase == .empty) = true
      ∧ nextWith (exec .final (begun .sha256)) (fun t => t.errcode == some .badOutbits) = true
      ∧ nextWith (exec .final { begun .sha256 with outbits := 256 }) (fun t => t.phase == .finalized) = true := by
  decide

theorem witness_AluLawsHold :
    nextWith (exec (.wadd .w8) (operands 0xff 0xff 0)) (fun t => t.r == 0xfe) = true
      ∧ nextWith (exec (.bswap .w16) (operands 0x1234 0 0)) (fun t => t.r == 0x3412) = true
      ∧ nextWith (exec (.rotl .w8) (operands 0x81 3 0)) (fun t => t.r == 0x0c) = true
      ∧ (operands 1 2 0).c.toNat % 2 = 0
      ∧ nextWith (exec (.not .w8) (operands 0x0f 0 0)) (fun t => t.r == 0xf0) = true := by decide

theorem witness_DigestReadsStayInTheDigest :
    let s := { State.reset with dg := Vector.replicate 64 0xab, w := Vector.replicate 80 0x77 }
    (s.readDigest 65).getD 63 0 = 0xab ∧ (s.readDigest 65).getD 64 0 = 0 := by decide

theorem witness_InstancesAreIndependent :
    ((Platform.reset ⟨0x4000, [0x8000]⟩).performAt 1 (.write 0x004 5)).isSome = true := by decide

/-- An address in the second window reaches the second instance. -/
theorem test_platform_locates :
    (Platform.reset ⟨0x4000, [0x8000]⟩).locate 0x8010 = some (1, 4)
      ∧ (Platform.reset ⟨0x4000, [0x8000]⟩).locate 0x7000 = none := by decide

/-- A reset of the whole platform reaches each instance. -/
theorem test_platform_resetAll :
    let p : Platform := ⟨⟨0x4000, [0x8000]⟩, [begun .md5, begun .sha512]⟩
    p.wf ∧ p.resetAll.cores = [State.reset, State.reset] := ⟨rfl, rfl⟩

/-! ## Host procedures (30_encoding.md R102, R103) -/

/-- 3328 bytes are 832 reads, the last at 0xFFC; a longer request adds no access (log entry 16). -/
theorem test_getDigest_ends_with_the_window :
    getDigest 5 = [.read 0x0C0, .read 0x0C1] ∧ (getDigest 3328).getLast? = some (.read 0x3FF)
      ∧ getDigest 3332 = getDigest 3328 := by decide +kernel

theorem test_feed_groups :
    feed [0x61, 0x62, 0x63, 0x64, 0x65]
      = [wr .din 0x64636261, cmd (.absorb 4), wr .din 0x65, cmd (.absorb 1)] := by decide
theorem test_sha512t_name :
    sha512tName 256 = [0x53, 0x48, 0x41, 0x2d, 0x35, 0x31, 0x32, 0x2f, 0x32, 0x35, 0x36] := by decide

end Sys2Proof.Tests
end

section
/-! The register map at its own offsets, what a port access does there, and the block buffer's lanes
(20_memory.md R62, R65, R67 to R69). -/

open Sys2Proof.Claims

namespace Sys2Proof

/-- No register lies past the window, so its word offset carries its whole byte offset (20_memory.md R61). -/
theorem PortReg.four_mul_offset_toNat (r : PortReg) : 4 * r.offset.toNat = r.byteOffset := by
  cases r <;> simp only [PortReg.offset, PortReg.byteOffset, BitVec.toNat_ofNat] <;> omega

/-- The register map finds every register at its own offset (20_memory.md R62). -/
@[simp] theorem portReg_offset (r : PortReg) : portReg r.offset = some r := by
  cases r with
  | id | cmd | status | outbits | din | bufbits => rfl
  | totlen k | a k | b k | c k | r k | rh k | blk k | dg k =>
    simp (disch := omega) only [portReg, PortReg.four_mul_offset_toNat, PortReg.byteOffset, if_neg, if_pos]
    congr 2
    ext
    simp only [Fin.val_ofNat]
    omega
  | h i k | w i k =>
    simp (disch := omega) only [portReg, PortReg.four_mul_offset_toNat, PortReg.byteOffset, if_neg, if_pos]
    congr 2 <;> ext <;> simp only [Fin.val_ofNat] <;> omega

/-- The offsets 0x200 + 4j are those of the block buffer's port words (20_memory.md R62). -/
theorem PortReg.blk_offset (j : Fin 32) : (PortReg.blk j).offset = BitVec.ofNat 10 (0x80 + j.val) := by
  simp only [PortReg.offset, PortReg.byteOffset]
  rw [show (0x200 + 4 * j.val) / 4 = 0x80 + j.val by omega]

namespace Machine

/-- A read at a register's offset returns the register (20_memory.md R67). -/
@[simp] theorem State.busRead_offset (s : State) (r : PortReg) : s.busRead r.offset = s.readReg r := by
  simp [State.busRead]

/-- A write at a register's offset stores the word, except at CMD (20_memory.md R68). -/
theorem State.busWrite_offset (s : State) (r : PortReg) (v : Word32) (h : r ≠ .cmd) :
    s.busWrite r.offset v = .next (s.writeReg r v) := by
  rw [State.busWrite, portReg_offset]
  split
  case h_1 heq => cases heq
  case h_2 heq => exact absurd (Option.some.inj heq) h
  case h_3 heq => rw [Option.some.inj heq]

/-- A reserved offset reads 0 (20_memory.md R69). -/
theorem State.busRead_reserved (s : State) (off : WordOffset) (h : portReg off = none) :
    s.busRead off = 0 := by
  simp [State.busRead, h]

/-- A write to a reserved offset is ignored (20_memory.md R69). -/
theorem State.busWrite_reserved (s : State) (off : WordOffset) (v : Word32) (h : portReg off = none) :
    s.busWrite off v = .next s := by
  simp [State.busWrite, h]

/-- A register that is not read-write keeps what it holds (20_memory.md R68). -/
theorem State.writeReg_of_not_readWrite (s : State) (r : PortReg) (v : Word32)
    (h : isReadWrite r = false) : s.writeReg r v = s := by
  cases r with
  | outbits | din | a _ | b _ | c _ | h _ _ | blk _ => cases h
  | id | cmd | status | bufbits | totlen _ | r _ | rh _ | dg _ | w _ _ => rfl

/-- Inside the buffer, `blkByte` is the byte BLK holds there. -/
theorem blkByte_eq_getElem (s : State) (n : Nat) (hn : n < 128) : blkByte s n = s.blk[n] := by
  simp [blkByte, hn]

/-- Byte `n` of BLK after one of its port words is written (20_memory.md R65). -/
theorem blkByte_writeReg_blk (s : State) (j : Fin 32) (v : Word32) (n : Nat) (hn : n < 128) :
    blkByte (s.writeReg (.blk j) v) n = if n / 4 = j.val then laneByte v (n % 4) else blkByte s n := by
  rw [blkByte_eq_getElem _ n hn, blkByte_eq_getElem s n hn]
  exact withLanes_getElem (n := 32) s.blk j v n hn

/-- A port word of BLK reads its four bytes, the last most significant (20_memory.md R65). -/
theorem State.readReg_blk (s : State) (j : Fin 32) :
    s.readReg (.blk j)
      = blkByte s (4 * j.val + 3) ++ blkByte s (4 * j.val + 2) ++ blkByte s (4 * j.val + 1)
        ++ blkByte s (4 * j.val) := by
  rw [blkByte_eq_getElem s _ (by omega), blkByte_eq_getElem s _ (by omega),
    blkByte_eq_getElem s _ (by omega), blkByte_eq_getElem s _ (by omega)]
  rfl

/-- Settles O15: the offset is that of BLK's port word `j`, so the write is `writeReg` there, byte by
byte `blkByte_writeReg_blk`, and the read is `readReg`. -/
theorem blockLanesAreLittleEndian : Obligations.BlockLanesAreLittleEndian := by
  intro s j v
  rw [← PortReg.blk_offset, State.busRead_offset, State.busWrite_offset s _ v (by simp)]
  exact ⟨⟨s.writeReg (.blk j) v, rfl, rfl, blkByte_writeReg_blk s j v⟩, s.readReg_blk j⟩

/-- Settles O13: at a read-only register the write is a `writeReg` that keeps the state; at a reserved
offset there is no register to write or read. -/
theorem readOnlyAndReservedWritesAreIgnored : Obligations.ReadOnlyAndReservedWritesAreIgnored := by
  refine ⟨fun s r v hro hcmd => ?_, fun s off v hnone => ?_⟩
  · rw [s.busWrite_offset r v hcmd, s.writeReg_of_not_readWrite r v hro]
  · exact ⟨s.busWrite_reserved off v hnone, s.busRead_reserved off hnone⟩

end Machine

end Sys2Proof
end

section
/-! What each row of the opcode map demands of a command word, and the decoder's answer to every word
(30_encoding.md R93, R94, R99). -/

open Sys2Proof.Claims

namespace Sys2Proof

@[simp] theorem fieldF1_toNat_eq_f1Of (v : Word32) : (fieldF1 v).toNat = f1Of v := fieldF1_toNat v

@[simp] theorem fieldF2_toNat_eq_f2Of (v : Word32) : (fieldF2 v).toNat = f2Of v := fieldF2_toNat v

@[simp] theorem fieldRsv_eq_zero (v : Word32) : fieldRsv v = 0#16 ↔ rsvOf v = 0 := by
  rw [← BitVec.toNat_inj, fieldRsv_toNat]
  rfl

@[simp] theorem fieldF1_eq_zero (v : Word32) : fieldF1 v = 0#4 ↔ f1Of v = 0 := by
  simp [← BitVec.toNat_inj]

@[simp] theorem fieldF2_eq_zero (v : Word32) : fieldF2 v = 0#4 ↔ f2Of v = 0 := by
  simp [← BitVec.toNat_inj]

/-- The opcodes outside the map (30_encoding.md R94). -/
theorem opcodeForm_eq_none (opc : BitVec 8) :
    opcodeForm opc = none ↔ ¬((opc.toNat = 0x01 ∨ opc.toNat = 0x02)
      ∨ (opc.toNat = 0x0F ∨ opc.toNat = 0x12 ∨ opc.toNat = 0x20 ∨ opc.toNat = 0x21)
      ∨ opc.toNat = 0x10 ∨ opc.toNat = 0x11 ∨ 0x30 ≤ opc.toNat ∧ opc.toNat ≤ 0x3D) := by
  revert opc; decide

/-- A row of the opcode map: the opcodes of the form's kind, and the words of its commands, the opcode
with the operand in its own field and 0 in the other (30_encoding.md R93). -/
def CommandForm.IsRow (opc : BitVec 8) : CommandForm → Prop
  | .mode mk => (opc.toNat = 0x01 ∨ opc.toNat = 0x02) ∧ ∀ m, encode (mk m) = commandWord opc m.code 0
  | .plain i =>
    (opc.toNat = 0x0F ∨ opc.toNat = 0x12 ∨ opc.toNat = 0x20 ∨ opc.toNat = 0x21)
      ∧ encode i = commandWord opc 0 0
  | .count max mk =>
    (opc.toNat = 0x10 ∧ max = 4 ∨ opc.toNat = 0x11 ∧ max = 7) ∧ ∀ n, encode (mk n) = commandWord opc 0 n
  | .width mk => (0x30 ≤ opc.toNat ∧ opc.toNat ≤ 0x3D) ∧ ∀ w, encode (mk w) = commandWord opc w.code 0

/-- Row by row, the opcode map and the encoder agree. -/
theorem opcodeForm_isRow {opc : BitVec 8} {form : CommandForm} (h : opcodeForm opc = some form) :
    form.IsRow opc := by
  unfold opcodeForm at h
  split at h <;> cases h
  all_goals
    rename_i hopc
    have hword := congrArg (BitVec.ofNat 8) hopc
    rw [BitVec.ofNat_toNat, BitVec.setWidth_eq] at hword
    simp [CommandForm.IsRow, encode, hword]

/-- An accepted word is the encoding of the command it decodes to: no bit of it is ignored. -/
theorem encode_of_decode_ok {v : Word32} {i : Instr} (h : decode v = .ok i) : encode i = v := by
  obtain ⟨form, hform, hrsv, hread⟩ := decode_ok_cases h
  have hrow := opcodeForm_isRow hform
  rw [← commandWord_fields hrsv]
  obtain ⟨mk, m, rfl, h2, h1, rfl⟩ | ⟨rfl, h1, h2⟩ | ⟨max, mk, rfl, h1, -, rfl⟩ | ⟨mk, w, rfl, h2, h1, rfl⟩ :=
    CommandForm.read_ok_cases hread
  · rw [h1, h2, hrow.2]
  · rw [h1, h2, hrow.2]
  · rw [h1, hrow.2]
  · rw [h1, h2, hrow.2]

section Answers
variable {v : Word32}

/-- A word whose opcode is outside the map. -/
theorem decode_of_opcodeForm_none (h : opcodeForm (fieldOpc v) = none) :
    decode v = .error .illegalOpcode := by
  simp [decode, h]

/-- A word whose opcode is in the map, with a reserved bit set. -/
theorem decode_of_rsv_ne_zero {form : CommandForm} (h : opcodeForm (fieldOpc v) = some form)
    (hrsv : rsvOf v ≠ 0) : decode v = .error .reservedField := by
  simp [decode, h, hrsv]

/-- A word whose opcode is in the map, with no reserved bit set: its row reads the fields. -/
theorem decode_of_rsv_eq_zero {form : CommandForm} (h : opcodeForm (fieldOpc v) = some form)
    (hrsv : rsvOf v = 0) : decode v = form.read (fieldF1 v) (fieldF2 v) := by
  simp [decode, h, hrsv]

/-- Words with a mode in F1. -/
theorem decode_mode {mk : Mode → Instr} (h : opcodeForm (fieldOpc v) = some (.mode mk)) (hrsv : rsvOf v = 0) :
    if f2Of v ≠ 0 then decode v = .error .reservedField
    else if 9 < f1Of v then decode v = .error .badMode
    else ∃ m : Mode, m.code = fieldF1 v ∧ decode v = .ok (mk m) := by
  have hcode := fieldF1_toNat_eq_f1Of v ▸ Mode.ofCode_eq_none (fieldF1 v)
  rw [decode_of_rsv_eq_zero h hrsv]
  split_ifs with h2 h1
  · simp [CommandForm.read, h2]
  · simp [CommandForm.read, not_not.mp h2, hcode.mpr h1]
  · obtain ⟨m, hm⟩ := Option.ne_none_iff_exists'.mp (mt hcode.mp h1)
    exact ⟨m, Mode.code_of_ofCode hm, by simp [CommandForm.read, not_not.mp h2, hm]⟩

/-- Words without operands. -/
theorem decode_plain {i : Instr} (h : opcodeForm (fieldOpc v) = some (.plain i)) (hrsv : rsvOf v = 0) :
    if f1Of v ≠ 0 ∨ f2Of v ≠ 0 then decode v = .error .reservedField else decode v = .ok i := by
  rw [decode_of_rsv_eq_zero h hrsv]
  split_ifs with h0
  · simpa [CommandForm.read, imp_iff_not_or] using h0
  · simp [CommandForm.read, not_or.mp h0]

/-- Words with a count in F2. -/
theorem decode_count {max : Nat} {mk : BitVec 4 → Instr} (h : opcodeForm (fieldOpc v) = some (.count max mk))
    (hrsv : rsvOf v = 0) :
    if f1Of v ≠ 0 then decode v = .error .reservedField
    else if max < f2Of v then decode v = .error .badCount
    else decode v = .ok (mk (fieldF2 v)) := by
  rw [decode_of_rsv_eq_zero h hrsv]
  split_ifs with h1 h2
  · simp [CommandForm.read, h1]
  · simp [CommandForm.read, not_not.mp h1, h2]
  · simp [CommandForm.read, not_not.mp h1, h2]

/-- Words with a width in F1. -/
theorem decode_width {mk : Width → Instr} (h : opcodeForm (fieldOpc v) = some (.width mk)) (hrsv : rsvOf v = 0) :
    if f2Of v ≠ 0 then decode v = .error .reservedField
    else if 4 < f1Of v then decode v = .error .badWidth
    else ∃ w : Width, w.code = fieldF1 v ∧ decode v = .ok (mk w) := by
  have hcode := fieldF1_toNat_eq_f1Of v ▸ Width.ofCode_eq_none (fieldF1 v)
  rw [decode_of_rsv_eq_zero h hrsv]
  split_ifs with h2 h1
  · simp [CommandForm.read, h2]
  · simp [CommandForm.read, not_not.mp h2, hcode.mpr h1]
  · obtain ⟨w, hw⟩ := Option.ne_none_iff_exists'.mp (mt hcode.mp h1)
    exact ⟨w, Width.code_of_ofCode hw, by simp [CommandForm.read, not_not.mp h2, hw]⟩

end Answers

/-- Settles O3: the opcode's row in the map says which kind of word it is, `decode_mode`, `decode_plain`,
`decode_count` or `decode_width` answers a word of that kind, and what is accepted is its own encoding. -/
theorem decodeChecksInOrder : Obligations.DecodeChecksInOrder := by
  intro v opc f1 f2 rsv isMode isPlain isWidth accepted
  have hopc : (fieldOpc v).toNat = opc := fieldOpc_toNat v
  have accept {i : Instr} (h : decode v = .ok i) : accepted := ⟨i, h, encode_of_decode_ok h⟩
  cases hform : opcodeForm (fieldOpc v) with
  | none =>
    rw [if_pos (hopc ▸ (opcodeForm_eq_none _).mp hform)]
    exact decode_of_opcodeForm_none hform
  | some form =>
    have hmap := mt (opcodeForm_eq_none _).mpr (Option.ne_none_iff_exists'.mpr ⟨form, hform⟩)
    rw [if_neg (hopc ▸ hmap)]
    by_cases hrsv : rsv = 0
    case neg =>
      rw [if_pos hrsv]
      exact decode_of_rsv_ne_zero hform hrsv
    rw [if_neg (not_not.mpr hrsv)]
    have hrow := opcodeForm_isRow hform
    cases form with
    | mode mk =>
      simp only [CommandForm.IsRow, hopc] at hrow
      rw [if_pos hrow.1]
      have hdec := decode_mode hform hrsv
      change if f2Of v ≠ 0 then _ else if 9 < f1Of v then _ else accepted
      split_ifs at hdec ⊢
      exacts [hdec, hdec, accept hdec.choose_spec.2]
    | plain i =>
      simp only [CommandForm.IsRow, hopc] at hrow
      rw [if_neg (show ¬(opc = 0x01 ∨ opc = 0x02) by omega), if_pos hrow.1]
      have hdec := decode_plain hform hrsv
      change if f1Of v ≠ 0 ∨ f2Of v ≠ 0 then _ else accepted
      split_ifs at hdec ⊢
      exacts [hdec, accept hdec]
    | count max mk =>
      simp only [CommandForm.IsRow, hopc] at hrow
      rw [if_neg (show ¬(opc = 0x01 ∨ opc = 0x02) by omega),
        if_neg (show ¬(opc = 0x0F ∨ opc = 0x12 ∨ opc = 0x20 ∨ opc = 0x21) by omega)]
      have hdec := decode_count hform hrsv
      obtain ⟨habsorb, rfl⟩ | ⟨habsorbbits, rfl⟩ := hrow.1
      · rw [if_pos habsorb]
        change if f1Of v ≠ 0 then _ else if 4 < f2Of v then _ else accepted
        split_ifs at hdec ⊢
        exacts [hdec, hdec, accept hdec]
      · rw [if_neg (by omega), if_pos habsorbbits]
        change if f1Of v ≠ 0 then _ else if 7 < f2Of v then _ else accepted
        split_ifs at hdec ⊢
        exacts [hdec, hdec, accept hdec]
    | width mk =>
      simp only [CommandForm.IsRow, hopc] at hrow
      rw [if_neg (show ¬(opc = 0x01 ∨ opc = 0x02) by omega),
        if_neg (show ¬(opc = 0x0F ∨ opc = 0x12 ∨ opc = 0x20 ∨ opc = 0x21) by omega),
        if_neg (by omega), if_neg (by omega)]
      have hdec := decode_width hform hrsv
      change if f2Of v ≠ 0 then _ else if 4 < f1Of v then _ else accepted
      split_ifs at hdec ⊢
      exacts [hdec, hdec, accept hdec.choose_spec.2]

end Sys2Proof
end

section
/-! The words of a row of the opcode map, and the control commands INIT, INITK and CLRERR (30_encoding.md
R93, R99; 40_control.md R121, R123, R124). -/

open Sys2Proof.Claims

namespace Sys2Proof

/-- A word whose low byte is `opc` is read by the row of `opc` (30_encoding.md R91). -/
theorem opcodeForm_fieldOpc {v : Word32} {opc : Nat} (h : v.toNat % 2 ^ 8 = opc) :
    opcodeForm (fieldOpc v) = opcodeForm (BitVec.ofNat 8 opc) := by
  rw [← h, ← fieldOpc_toNat, BitVec.ofNat_toNat, BitVec.setWidth_eq]

/-- Each mode stands in the table of 30_encoding.md R97 beside its own code. -/
theorem code_mem_modeRows (m : Mode) : (m.code.toNat, m) ∈ modeRows := by
  cases m <;> decide

/-- Where the row's own fields decide a word with no reserved bit set, a set reserved bit is refused
first, with the same code 2 (30_encoding.md R99). -/
theorem decode_rsv_or {v : Word32} {form : CommandForm} (hform : opcodeForm (fieldOpc v) = some form)
    {nonzero rest : Prop} [Decidable nonzero]
    (hfields : rsvOf v = 0 → if nonzero then decode v = .error .reservedField else rest) :
    if rsvOf v ≠ 0 ∨ nonzero then decode v = .error .reservedField else rest := by
  by_cases hrsv : rsvOf v = 0
  · simpa only [hrsv, ne_eq, not_true_eq_false, false_or] using hfields hrsv
  · rw [if_pos (.inl hrsv)]
    exact decode_of_rsv_ne_zero hform hrsv

/-- A row of the map with a mode in F1. -/
theorem modeCoded_of_opcodeForm {opc : Nat} {mk : Mode → Instr}
    (h : opcodeForm (BitVec.ofNat 8 opc) = some (.mode mk)) : modeCoded opc mk := by
  intro v hopc
  have hform := (opcodeForm_fieldOpc hopc).trans h
  refine decode_rsv_or hform fun hrsv => ?_
  have hdec := decode_mode hform hrsv
  split_ifs at hdec ⊢
  · exact hdec
  · exact hdec
  · obtain ⟨m, hcode, hok⟩ := hdec
    exact ⟨m, hok, by simpa [hcode] using code_mem_modeRows m⟩

/-- A row of the map without operands. -/
theorem plainCoded_of_opcodeForm {opc : Nat} {i : Instr}
    (h : opcodeForm (BitVec.ofNat 8 opc) = some (.plain i)) : plainCoded opc i := by
  intro v hopc
  have hform := (opcodeForm_fieldOpc hopc).trans h
  exact decode_rsv_or hform (decode_plain hform)

/-- The H that INIT loads: the IV below K and 0 above (40_control.md R121). -/
theorem Mode.ivWords_getElem (m : Mode) (i : Fin 8) : m.ivWords[i] = m.iv.getD i.val 0 := by
  simp [Mode.ivWords]

/-- The default OUTBITS is the one 30_encoding.md R97 lists. -/
theorem Mode.defaultOutbits_toNat (m : Mode) : m.defaultOutbits.toNat = outbitsOf m := by
  cases m <;> rfl

namespace Machine

/-- A blank BLK holds 0 at every byte (40_control.md R121, R123). -/
theorem blkByte_of_blk_eq_zeros {t : State} (h : t.blk = Vector.replicate 128 0) (j : Nat) :
    blkByte t j = 0 := by
  rw [blkByte, h, Vector.toList_replicate, List.getD_eq_getElem?_getD,
    List.getElem?_getD_replicate_default_eq]

/-- Settles O25: `init` has the row of opcode 0x01, and the state it leaves is `startMessage`'s with the
mode's IV and default output length. -/
theorem initStartsTheStandardMessage : Obligations.InitStartsTheStandardMessage := by
  refine ⟨modeCoded_of_opcodeForm rfl, fun m s => ?_⟩
  exact ⟨{ s.startMessage m false with h := m.ivWords, outbits := m.defaultOutbits }, rfl, rfl,
    m.ivWords_getElem, blkByte_of_blk_eq_zeros rfl, m.defaultOutbits_toNat⟩

/-- Settles O26: `initk` has the row of opcode 0x02, and the state it leaves is `startMessage`'s. -/
theorem initkKeepsTheHostsValues : Obligations.InitkKeepsTheHostsValues := by
  refine ⟨modeCoded_of_opcodeForm rfl, fun m s => ?_⟩
  exact ⟨s.startMessage m true, rfl, rfl, blkByte_of_blk_eq_zeros (s.startMessage_blk m true)⟩

/-- Settles O27: `clrerr` has the row of opcode 0x0F, and the state it leaves is `clearError`'s. -/
theorem clrerrClearsTheRecordOnly : Obligations.ClrerrClearsTheRecordOnly :=
  ⟨plainCoded_of_opcodeForm rfl, fun _ => rfl⟩

end Machine

end Sys2Proof
end

section
/-! Padding, the length field, serialization and truncation, bit by bit (41_streaming.md R150, R155 to R161). -/

open Sys2Proof.Claims

namespace Sys2Proof

/-! ### Bit strings held in bytes (R150) -/

theorem msgBit_append_left {xs ys : List Byte} {p : Nat} (h : p < 8 * xs.length) :
    msgBit (xs ++ ys) p = msgBit xs p := by
  rw [msgBit, msgBit, List.getD_append _ _ _ _ (by omega)]

/-- The mask keeps the first `n` bits of a byte. -/
theorem highBitsMask_msgBit {n : Nat} (hn : n ≤ 8) (p : Nat) :
    (highBitsMask n).getLsbD (7 - p % 8) = decide (p % 8 < n) := by
  rw [highBitsMask_getLsbD n _ hn (by omega)]
  exact decide_eq_decide.mpr (by omega)

/-- The byte `0x80 >> k` has bit `k` of the message order and no other. -/
theorem oneBit_msgBit {k : Nat} (hk : k < 8) (p : Nat) :
    (BitVec.ofNat 8 (0x80 >>> k)).getLsbD (7 - p % 8) = decide (p % 8 = k) := by
  have hp : p % 8 < 8 := by omega
  generalize p % 8 = b at hp
  revert b k
  decide

/-! ### Truncation (R161) -/

/-- Byte `j` of a truncated string. -/
theorem truncDigest_getD (d : List Byte) (ob : Nat) {j : Nat} (hj : j < 64) :
    (truncDigest d ob).toList.getD j 0 =
      if j < ob / 8 then d.getD j 0
      else if j = ob / 8 ∧ ob % 8 ≠ 0 then d.getD j 0 &&& highBitsMask (ob % 8)
      else 0 := by
  rw [← List.getElem_eq_getD (h := by simpa using hj), Vector.getElem_toList, truncDigest,
    Vector.getElem_ofFn]

/-- Settles O36: whole bytes before byte `ob / 8`, that byte masked, zeros after it. -/
theorem truncationKeepsTheFirstBits : Obligations.TruncationKeepsTheFirstBits := by
  intro d ob p hp
  rw [msgBit, msgBit, truncDigest_getD d ob (by omega)]
  split_ifs with hwhole hpart
  · simp [show p < ob by omega]
  · rw [BitVec.getLsbD_and, highBitsMask_msgBit (by omega), Bool.and_comm,
      decide_eq_decide.mpr (show p % 8 < ob % 8 ↔ p < ob by omega)]
  · simp [show ¬p < ob by omega]

/-! ### Padding (R155) -/

/-- A block is a whole number of bytes, and the length field leaves room for the 1 bit (00_scope.md R5). -/
theorem Engine.lenBytes_lt_blockBytes (e : Engine) : e.lenBytes < e.blockBytes := by
  cases e <;> decide

/-- Byte `j` before the length field: message bytes, the byte of the 1 bit with the message bits before it,
zeros. -/
theorem padHead_getD (n : Nat) (blk : List Byte) (r : Nat) {j : Nat} (hj : j < n) :
    (padHead n blk r).getD j 0 =
      if j < r / 8 then blk.getD j 0
      else if j = r / 8 then
        blk.getD j 0 &&& highBitsMask (r % 8) ||| BitVec.ofNat 8 (0x80 >>> (r % 8))
      else 0 := by
  rw [← List.getElem_eq_getD (h := by simpa using hj)]
  simp only [padHead, List.getElem_map, List.getElem_range]
  obtain hlt | rfl | hgt := Nat.lt_trichotomy j (r / 8)
  · rw [if_neg hlt.ne, if_pos (by omega), if_pos hlt]
  · by_cases hr : r % 8 = 0
    · simp [hr, show ¬r / 8 < (r + 7) / 8 by omega, highBitsMask]
    · simp [hr, show r / 8 < (r + 7) / 8 by omega]
  · rw [if_neg hgt.ne', if_neg (by omega), if_neg (by omega), if_neg hgt.ne']

/-- Before the length field stand the message, one 1 bit and zeros. -/
theorem msgBit_padHead {n p : Nat} (hp : p < 8 * n) (blk : List Byte) (r : Nat) :
    msgBit (padHead n blk r) p = if p < r then msgBit blk p else decide (p = r) := by
  rw [msgBit, msgBit, padHead_getD n blk r (by omega)]
  split_ifs with hbefore hr hat hr hr
  · rfl
  · omega
  · rw [BitVec.getLsbD_or, BitVec.getLsbD_and, highBitsMask_msgBit (by omega), oneBit_msgBit (by omega)]
    simp [show p % 8 < r % 8 by omega, show p % 8 ≠ r % 8 by omega]
  · rw [BitVec.getLsbD_or, BitVec.getLsbD_and, highBitsMask_msgBit (by omega), oneBit_msgBit (by omega)]
    simp [show ¬p % 8 < r % 8 by omega, show p % 8 = r % 8 ↔ p = r by omega]
  · omega
  · simp [show p ≠ r by omega]

/-- The head of a longer pad begins with the head of a shorter one. -/
theorem padHead_take {m n : Nat} (h : m ≤ n) (blk : List Byte) (r : Nat) :
    (padHead n blk r).take m = padHead m blk r := by
  rw [padHead, padHead, ← List.map_take, List.take_range, Nat.min_eq_left h]

/-- Past the byte of the 1 bit the head goes on with zeros. -/
theorem padHead_append_zeros {n r : Nat} (h : r < 8 * n) (blk : List Byte) (k : Nat) :
    padHead n blk r ++ List.replicate k 0 = padHead (n + k) blk r := by
  refine List.ext_getElem (by simp) fun j _ hj => ?_
  rw [List.getElem_eq_getD 0, List.getElem_eq_getD 0, padHead_getD _ _ _ (by simpa using hj)]
  by_cases hjn : j < n
  · rw [List.getD_append _ _ _ _ (by simpa using hjn), padHead_getD _ _ _ hjn]
  · rw [List.getD_append_right _ _ _ _ (by simpa using hjn), List.getD_eq_getElem?_getD,
      List.getElem?_getD_replicate_default_eq, if_neg (by omega), if_neg (by omega)]

/-- One block if the 1 bit and the length field fit after the message bits, else two (R155). -/
theorem Engine.pad_length (e : Engine) (blk : List Byte) (L : Nat) :
    (e.pad blk L).length = if L % e.blockBits + 1 + e.lenBits ≤ e.blockBits then 1 else 2 := by
  simp only [Engine.pad, apply_ite List.length, List.length_cons, List.length_nil]

/-- The padding is whole blocks (R155). -/
theorem Engine.length_of_mem_pad {e : Engine} {blk : List Byte} {L : Nat} {P : List Byte}
    (h : P ∈ e.pad blk L) : P.length = e.blockBytes := by
  have hlen := e.lenBytes_lt_blockBytes.le
  have hlast {Q : List Byte} (hQ : Q.length = e.blockBytes) :
      (withLenField Q (e.lenField L)).length = e.blockBytes := by
    rw [withLenField_length _ _ (by simpa [hQ] using hlen), hQ]
  simp only [Engine.pad] at h
  split_ifs at h
  · obtain rfl := List.mem_singleton.mp h
    exact hlast (padHead_length _ _ _)
  · obtain rfl | rfl := List.mem_pair.mp h
    · exact padHead_length _ _ _
    · exact hlast List.length_replicate

/-- All blocks together: one head as long as they are but for the length field, then the length field. -/
theorem Engine.pad_flatten (e : Engine) (blk : List Byte) (L : Nat) :
    (e.pad blk L).flatten =
      padHead ((e.pad blk L).length * e.blockBytes - e.lenBytes) blk (L % e.blockBits) ++ e.lenField L := by
  have hlen := e.lenBytes_lt_blockBytes
  have hr : L % e.blockBits < 8 * e.blockBytes := Nat.mod_lt _ (by rw [Engine.blockBits]; omega)
  rw [Engine.pad_length]
  simp only [Engine.pad]
  split_ifs
  · simp [withLenField, padHead_take]
  · rw [List.flatten_cons, List.flatten_singleton, withLenField, List.take_replicate, ← List.append_assoc,
      padHead_append_zeros hr, List.length_replicate, Engine.lenField_length, Nat.min_eq_left (by omega),
      show e.blockBytes + (e.blockBytes - e.lenBytes) = 2 * e.blockBytes - e.lenBytes by omega]

/-- The message bits and the 1 bit fit before the length field (R157). -/
theorem Engine.pad_room (e : Engine) (blk : List Byte) (L : Nat) :
    L % e.blockBits < 8 * ((e.pad blk L).length * e.blockBytes - e.lenBytes) := by
  have hlen := e.lenBytes_lt_blockBytes
  have hr : L % e.blockBits < e.blockBits := Nat.mod_lt _ (by rw [Engine.blockBits]; omega)
  have hbits : e.blockBits = 8 * e.blockBytes ∧ e.lenBits = 8 * e.lenBytes := ⟨rfl, rfl⟩
  rw [Engine.pad_length]
  split_ifs <;> omega

/-- Settles O33: the padding is one head and the length field, `Engine.pad_flatten`, and the head is known bit
by bit, `msgBit_padHead`. -/
theorem paddingIsMessageOneZerosLength : Obligations.PaddingIsMessageOneZerosLength := by
  intro e blk L r padded body
  have hflat : padded = _ := e.pad_flatten blk L
  have hroom : r < _ := e.pad_room blk L
  generalize (e.pad blk L).length * e.blockBytes - e.lenBytes = n at hflat hroom
  have hlength : padded.length = n + e.lenBytes := by simp [hflat]
  have hbody : body = 8 * n := by
    simp only [body, hlength, Engine.lenBits]
    omega
  refine ⟨fun p hp => ?_, ?_, by omega, fun P => Engine.length_of_mem_pad, e.pad_length blk L⟩
  · have hpn : p < 8 * n := hbody ▸ hp
    rw [hflat, msgBit_append_left (by simpa using hpn), msgBit_padHead hpn]
  · rw [hlength, Nat.add_sub_cancel, hflat, List.drop_left' (padHead_length _ _ _)]

/-! ### Byte orders (R158, R160) -/

/-- The chaining words are no fewer than the state words (00_scope.md R5). -/
theorem Engine.stateWords_le (e : Engine) : e.stateWords ≤ 8 := by
  cases e <;> decide

/-- Byte `k` of a little-endian word is its byte `k` from the least significant (00_scope.md R8). -/
theorem serLe_toNat_getD (x : Word64) {n k : Nat} (hk : k < n) :
    (serLe n x.toNat).getD k 0 = x.extractLsb' (8 * k) 8 := by
  rw [serLe_getD, if_pos hk]
  apply BitVec.eq_of_toNat_eq
  rw [BitVec.toNat_ofNat, BitVec.extractLsb'_toNat, Nat.shiftRight_eq_div_pow, pow_mul, show 2 ^ 8 = 256 from rfl]

/-- Byte `k` of a big-endian word is its byte `k` from the most significant (00_scope.md R8). -/
theorem serBe_toNat_getD (x : Word64) {n k : Nat} (hk : k < n) :
    (serBe n x.toNat).getD k 0 = x.extractLsb' (8 * (n - 1 - k)) 8 := by
  rw [← serLe_toNat_getD x (show n - 1 - k < n by omega), serBe, List.getD_eq_getElem?_getD,
    List.getD_eq_getElem?_getD, List.getElem?_reverse (by simpa using hk), serLe_length]

/-- The digest has the bytes of the state words (41_streaming.md R160). -/
theorem Engine.ser_length (e : Engine) (h : Vector Word64 8) :
    (e.ser h).length = e.wordBytes * e.stateWords := by
  rw [Engine.ser, List.length_flatMap, List.map_congr_left fun _ _ => e.serialize_length _ _, List.map_const',
    List.sum_replicate, smul_eq_mul, List.length_take, Vector.length_toList, Nat.min_eq_left e.stateWords_le,
    mul_comm]

/-- Byte `k` of state word `i` in the digest (41_streaming.md R160). -/
theorem Engine.ser_getD (e : Engine) (h : Vector Word64 8) (i : Fin e.stateWords) (k : Fin e.wordBytes) :
    (e.ser h).getD (e.wordBytes * i + k) 0 =
      (e.serialize e.wordBytes (h[i]'(i.isLt.trans_le e.stateWords_le)).toNat).getD k 0 := by
  have hi : i < (h.toList.take e.stateWords).length := by simpa using i.isLt.trans_le e.stateWords_le
  rw [Engine.ser, flatMap_getD_of_length _ _ (fun _ => e.serialize_length _ _) _ i k hi k.isLt,
    List.getElem_take, Vector.getElem_toList]
  rfl

/-- What fits in the length field, in bits (00_scope.md R5). -/
theorem Engine.pow_lenBytes (e : Engine) : 256 ^ e.lenBytes = 2 ^ e.lenBits := by
  rw [Engine.lenBits, pow_mul, show 2 ^ 8 = 256 from rfl]

section ByteOrders
variable {e : Engine}

/-- Length field and digest of a little-endian engine (41_streaming.md R158, R160). -/
theorem Engine.littleEndian_orders (he : e.littleEndian = true) :
    (∀ L, (e.lenField L).length = e.lenBytes ∧ leVal (e.lenField L) = L % 2 ^ e.lenBits)
      ∧ ∀ h : Vector Word64 8, (e.ser h).length = e.wordBytes * e.stateWords
        ∧ ∀ (i : Fin e.stateWords) (k : Fin e.wordBytes), (e.ser h).getD (e.wordBytes * i + k) 0 =
          (h[i]'(i.isLt.trans_le e.stateWords_le)).extractLsb' (8 * k) 8 := by
  refine ⟨fun L => ⟨e.lenField_length L, ?_⟩, fun h => ⟨e.ser_length h, fun i k => ?_⟩⟩
  · rw [Engine.lenField, Engine.serialize, if_pos he, leVal_serLe, e.pow_lenBytes]
  · rw [e.ser_getD, Engine.serialize, if_pos he, serLe_toNat_getD _ k.isLt]

/-- Length field and digest of a big-endian engine (41_streaming.md R158, R160). -/
theorem Engine.bigEndian_orders (he : e.littleEndian = false) :
    (∀ L, (e.lenField L).length = e.lenBytes ∧ beVal (e.lenField L) = L % 2 ^ e.lenBits)
      ∧ ∀ h : Vector Word64 8, (e.ser h).length = e.wordBytes * e.stateWords
        ∧ ∀ (i : Fin e.stateWords) (k : Fin e.wordBytes), (e.ser h).getD (e.wordBytes * i + k) 0 =
          (h[i]'(i.isLt.trans_le e.stateWords_le)).extractLsb' (8 * (e.wordBytes - 1 - k)) 8 := by
  have hbe : ¬e.littleEndian = true := by simp [he]
  refine ⟨fun L => ⟨e.lenField_length L, ?_⟩, fun h => ⟨e.ser_length h, fun i k => ?_⟩⟩
  · rw [Engine.lenField, Engine.serialize, if_neg hbe, beVal_serBe, e.pow_lenBytes]
  · rw [e.ser_getD, Engine.serialize, if_neg hbe, serBe_toNat_getD _ k.isLt]

end ByteOrders

/-- Settles O35: MD4 and MD5 are the little-endian engines, the SHA engines the big-endian ones. -/
theorem lengthAndDigestByteOrders : Obligations.LengthAndDigestByteOrders := by
  refine ⟨?_, ?_, Engine.bigEndian_orders (e := .sha256) rfl, Engine.bigEndian_orders (e := .sha512) rfl⟩
  · rintro e (rfl | rfl)
    · exact Engine.littleEndian_orders (e := .md4) rfl
    · exact Engine.littleEndian_orders (e := .md5) rfl
  · rintro e (rfl | rfl)
    · exact Engine.bigEndian_orders (e := .sha0) rfl
    · exact Engine.bigEndian_orders (e := .sha1) rfl

end Sys2Proof
end

section
/-! The streaming commands as one equation each (41_streaming.md R151, R153, R154, R162). -/

open Sys2Proof.Claims

namespace Sys2Proof

/-- A row of the map with a count in F2. -/
theorem countCoded_of_opcodeForm {opc max : Nat} {mk : BitVec 4 → Instr}
    (h : opcodeForm (BitVec.ofNat 8 opc) = some (.count max mk)) : countCoded opc max mk := by
  intro v hopc
  have hform := (opcodeForm_fieldOpc hopc).trans h
  have hF2 : BitVec.ofNat 4 (f2Of v) = fieldF2 v := by
    rw [← fieldF2_toNat_eq_f2Of, BitVec.ofNat_toNat, BitVec.setWidth_eq]
  rw [hF2]
  exact decode_rsv_or hform (decode_count hform)

/-- The state size is the one 30_encoding.md R97 lists. -/
theorem Mode.engine_stateBits (m : Mode) : m.engine.stateBits = stateBitsOf m := by
  cases m <;> rfl

/-- The block size is the one 00_scope.md R5 lists. -/
theorem Mode.engine_blockBits (m : Mode) : m.engine.blockBits = blockBitsOf m := by
  cases m <;> rfl

/-- The modes of the SHA-512 engine (30_encoding.md R97). -/
theorem Mode.engine_eq_sha512 (m : Mode) : m.engine = .sha512 ↔ isSha512Mode m = true := by
  cases m <;> decide

namespace Machine

/-- ABSORB `n`, its checks in order and its effect (41_streaming.md R151). -/
theorem exec_absorb {n : BitVec 4} (hn : n.toNat ≤ 4) (s : State) :
    exec (.absorb n) s =
      if s.phase = .unconf then recorded s .noMode
      else if s.bitpend = true then recorded s .bitPending
      else if n = 0 then .next s
      else .next ((s.appendBytes (s.dinBytes n.toNat)).withPhase .accum) :=
  if_neg (by omega)

/-- ABSORBBITS `n`, its checks in order and its effect (41_streaming.md R153). -/
theorem exec_absorbbits {n : BitVec 4} (hn : n.toNat ≤ 7) (s : State) :
    exec (.absorbbits n) s =
      if s.phase = .unconf then recorded s .noMode
      else if isSha512Mode s.mode = false then recorded s .bitMode
      else if s.bitpend = true then recorded s .bitPending
      else if n = 0 then .next s
      else .next (s.appendBits n.toNat) := by
  have hmode : s.engine ≠ .sha512 ↔ isSha512Mode s.mode = false := by
    rw [State.engine, ne_eq, Mode.engine_eq_sha512, Bool.not_eq_true]
  simp only [← hmode]
  exact if_neg (by omega)

/-- FINAL, its checks in order and its effect (41_streaming.md R154). -/
theorem exec_final (s : State) :
    exec .final s =
      if s.phase = .unconf then recorded s .noMode
      else if s.outbits = 0 ∨ stateBitsOf s.mode < s.outbits.toNat then recorded s .badOutbits
      else .next { s with dg := s.digest, w := s.lastSched s.padBlocks, phase := .finalized } := by
  have hzero : s.outbits = 0 ↔ s.outbits.toNat < 1 := by
    rw [Nat.lt_one_iff, ← BitVec.toNat_inj, BitVec.ofNat_eq_ofNat, BitVec.toNat_ofNat, Nat.zero_mod]
  simp only [hzero, ← Mode.engine_stateBits]
  rfl

/-- A refusal leaves PHASE as it is (60_exceptions.md R342). -/
theorem phase_of_recorded {s t : State} {c : CmdError} (h : recorded s c = .next t) :
    t.phase = s.phase := by
  cases h; rfl

/-- Settles O18: a command without checks writes PHASE as its equation says; for the others, every branch of
their equation is a refusal, which keeps PHASE, a no-op, or the effect. -/
theorem phaseFollowsTheTransitionTable : Obligations.PhaseFollowsTheTransitionTable := by
  intro i s t hwf h
  cases i with
  | init _ | initk _ | clrerr => cases h; rfl
  | wadd _ | cadd _ | wsub _ | bsub _ | cmul _ | rotl _ | rotr _ => cases h; rfl
  | shl _ | shr _ | bswap _ | and _ | or _ | xor _ | not _ => cases h; rfl
  | absorb n =>
    rw [exec_absorb (of_decide_eq_true hwf)] at h
    refine ⟨fun hphase => by rw [← h, if_pos hphase], ?_⟩
    split_ifs at h with hphase hbit hzero
    · simp [hphase, phase_of_recorded h]
    · simp [hbit, phase_of_recorded h]
    · cases h; simp [hzero]
    · cases h; rw [if_neg (by tauto)]; rfl
  | absorbbits n =>
    rw [exec_absorbbits (of_decide_eq_true hwf)] at h
    refine ⟨fun hphase => by rw [← h, if_pos hphase], ?_⟩
    split_ifs at h with hphase hmode hbit hzero
    · simp [hphase, phase_of_recorded h]
    · simp [hmode, phase_of_recorded h]
    · simp [hbit, phase_of_recorded h]
    · cases h; simp [hzero]
    · cases h; rw [if_neg (by tauto)]; rfl
  | final =>
    rw [exec_final] at h
    refine ⟨fun hphase => by rw [← h, if_pos hphase], ?_⟩
    split_ifs at h with hphase hout
    · simp [hphase, phase_of_recorded h]
    · rw [if_pos (.inr hout), phase_of_recorded h]
    · cases h; rw [if_neg (by tauto)]
  | compress =>
    obtain ⟨_, rfl⟩ | ⟨hphase, rfl⟩ := execCompress_cases h
    · exact ⟨fun _ => rfl, rfl⟩
    · exact ⟨fun hunconf => absurd hunconf hphase, rfl⟩
  | expand =>
    obtain ⟨_, rfl⟩ | ⟨hphase, rfl⟩ := execExpand_cases h
    · exact ⟨fun _ => rfl, rfl⟩
    · exact ⟨fun hunconf => absurd hunconf hphase, rfl⟩

/-- There is a padding block (41_streaming.md R155). -/
theorem State.padBlocks_ne_nil (s : State) : s.padBlocks ≠ [] := by
  have hcount := s.engine.pad_length s.blk.toList s.totlen.toNat
  apply List.ne_nil_of_length_pos
  rw [State.padBlocks, hcount]
  split_ifs <;> omega

/-- The schedule left in W after a run of blocks is that of the last one (70_reset_and_hazards.md R374). -/
theorem State.lastSched_eq {s : State} {blocks : List (List Byte)} {P : List Byte}
    (h : blocks.getLast? = some P) : s.lastSched blocks = s.engine.schedArray P := by
  obtain ⟨before, rfl⟩ := List.getLast?_eq_some_iff.mp h
  simp [State.lastSched]

/-- Settles O32: the row of opcode 0x12 has no operands, and the three branches are those of `exec_final`;
the last padding block gives W. -/
theorem finalDeliversTheDigest : Obligations.FinalDeliversTheDigest := by
  refine ⟨plainCoded_of_opcodeForm rfl, fun s => ?_⟩
  rw [exec_final]
  split_ifs
  · rfl
  · rfl
  · have hlast := List.getLast?_eq_some_getLast s.padBlocks_ne_nil
    exact ⟨_, rfl, rfl, rfl, _, hlast, State.lastSched_eq hlast⟩

/-- BLK, byte by byte, after one byte is stored at `p`. -/
theorem blkByte_setIfInBounds {s t : State} {p : Nat} {b : Byte} (h : t.blk = s.blk.setIfInBounds p b)
    {j : Nat} (hj : j < 128) : blkByte t j = if p = j then b else blkByte s j := by
  simp only [blkByte_eq_getElem _ j hj, h, Vector.getElem_setIfInBounds]

/-- Settles O31: the row of opcode 0x11 has a count, the branches are those of `exec_absorbbits`, and
`appendBits` stores the masked byte. -/
theorem absorbbitsAppendsThePartialByte : Obligations.AbsorbbitsAppendsThePartialByte := by
  refine ⟨countCoded_of_opcodeForm rfl, fun n s hn => ?_⟩
  rw [exec_absorbbits hn]
  split_ifs with _ hmode
  · rfl
  · rfl
  · rfl
  · rfl
  have hbuf : s.bufbits / 8 = s.totlen.toNat % 1024 / 8 := by
    rw [State.bufbits, State.engine, Mode.engine_blockBits, blockBitsOf, if_pos (by simpa using hmode)]
  have hblk := hbuf ▸ s.appendBits_blk n.toNat
  refine ⟨s.appendBits n.toNat, rfl, rfl, fun j hj hne => ?_, fun k hk => ?_⟩
  · rw [blkByte_setIfInBounds hblk hj, if_neg hne.symm]
  · rw [blkByte_setIfInBounds hblk (by omega), if_pos rfl, BitVec.getLsbD_and,
      highBitsMask_getLsbD _ _ (by omega) hk, Bool.and_comm]
    simp [laneByte, hk]

end Machine

end Sys2Proof
end

section
/-! ABSORB's bytes in the block buffer, and the full block compressed (41_streaming.md R151, R152). -/

open Sys2Proof.Claims

namespace Sys2Proof

/-! ### Bytes stored one after another -/

/-- Bytes stored in a block buffer from byte `p` on, as far as it goes. -/
def putBytes (blk : Vector Byte 128) (p : Nat) (bs : List Byte) : Vector Byte 128 :=
  Vector.ofFn fun j => if p ≤ j.val ∧ j.val < p + bs.length then bs.getD (j.val - p) 0 else blk[j]

theorem putBytes_getElem (blk : Vector Byte 128) (p : Nat) (bs : List Byte) {j : Nat} (hj : j < 128) :
    (putBytes blk p bs)[j] = if p ≤ j ∧ j < p + bs.length then bs.getD (j - p) 0 else blk[j] := by
  simp [putBytes]

@[simp] theorem putBytes_nil (blk : Vector Byte 128) (p : Nat) : putBytes blk p [] = blk := by
  ext1 j hj
  rw [putBytes_getElem _ _ _ hj, if_neg (by simp)]

/-- One byte more stands right after the others. -/
theorem putBytes_concat (blk : Vector Byte 128) (p : Nat) (bs : List Byte) (b : Byte) :
    (putBytes blk p bs).setIfInBounds (p + bs.length) b = putBytes blk p (bs ++ [b]) := by
  ext1 j hj
  simp only [Vector.getElem_setIfInBounds, putBytes_getElem _ _ _ hj, List.length_append,
    List.length_singleton]
  obtain hlt | rfl | hgt := Nat.lt_trichotomy j (p + bs.length)
  · rw [if_neg hlt.ne']
    by_cases hp : p ≤ j
    · rw [if_pos ⟨hp, hlt⟩, if_pos ⟨hp, by omega⟩, List.getD_append _ _ _ _ (by omega)]
    · rw [if_neg (by omega), if_neg (by omega)]
  · simp
  · rw [if_neg hgt.ne, if_neg (by omega), if_neg (by omega)]

/-- Up to the last byte stored: what stood before byte `p`, then the bytes stored. -/
theorem putBytes_take {blk : Vector Byte 128} {p : Nat} {bs : List Byte} (h : p + bs.length ≤ 128) :
    (putBytes blk p bs).toList.take (p + bs.length) = blk.toList.take p ++ bs := by
  have hp : (blk.toList.take p).length = p := by simp; omega
  refine List.ext_getElem (by simp; omega) fun j hj _ => ?_
  have hj : j < p + bs.length ∧ j < 128 := by simpa using hj
  rw [List.getElem_take, Vector.getElem_toList, putBytes_getElem _ _ _ hj.2]
  by_cases hpj : p ≤ j
  · rw [if_pos ⟨hpj, hj.1⟩, List.getElem_append_right (by omega), List.getElem_eq_getD 0]
    simp only [hp]
  · rw [if_neg (by omega), List.getElem_append_left (by omega), List.getElem_take, Vector.getElem_toList]

/-- A byte among the first `n` of a string. -/
theorem getD_take_of_lt (bs : List Byte) {k n : Nat} (h : k < n) : (bs.take n).getD k 0 = bs.getD k 0 := by
  rw [List.getD_eq_getElem?_getD, List.getElem?_take_of_lt h, List.getD_eq_getElem?_getD]

/-- A block has at least 4 bytes, as many as DIN, and at most 128, as many as BLK (00_scope.md R5). -/
theorem Engine.blockBytes_bounds (e : Engine) : 4 ≤ e.blockBytes ∧ e.blockBytes ≤ 128 := by
  cases e <;> decide

namespace Machine

/-! ### Bytes placed in BLK -/

/-- Bytes placed in the block buffer and counted, with no block check: `State.pushByte` for a string. -/
def State.pushBytes (s : State) (bs : List Byte) : State :=
  { s with
    blk := putBytes s.blk (s.bufbits / 8) bs
    totlen := s.totlen + BitVec.ofNat 128 (8 * bs.length) }

@[simp] theorem State.pushBytes_nil (s : State) : s.pushBytes [] = s := by
  simp [State.pushBytes]

@[simp] theorem State.pushBytes_engine (s : State) (bs : List Byte) : (s.pushBytes bs).engine = s.engine := rfl

@[simp] theorem State.pushBytes_blk (s : State) (bs : List Byte) :
    (s.pushBytes bs).blk = putBytes s.blk (s.bufbits / 8) bs := rfl

/-- BLK, byte by byte, after bytes are placed in it. -/
theorem blkByte_pushBytes (s : State) (bs : List Byte) {j : Nat} (hj : j < 128) :
    blkByte (s.pushBytes bs) j =
      if s.bufbits / 8 ≤ j ∧ j < s.bufbits / 8 + bs.length then bs.getD (j - s.bufbits / 8) 0
      else blkByte s j := by
  rw [blkByte_eq_getElem _ j hj, blkByte_eq_getElem _ j hj]
  exact putBytes_getElem _ _ _ hj

/-- BUFBITS counts modulo the block size, also where TOTLEN wraps (10_state.md R32, R33). -/
theorem State.bufbits_pushBytes (s : State) (bs : List Byte) :
    (s.pushBytes bs).bufbits = (s.bufbits + 8 * bs.length) % s.engine.blockBits := by
  have hdvd : s.engine.blockBits ∣ 2 ^ 128 := by cases s.engine <;> decide
  rw [State.bufbits, State.pushBytes_engine, State.bufbits, State.pushBytes]
  simp only [BitVec.toNat_add, BitVec.toNat_ofNat, Nat.add_mod_mod, Nat.mod_add_mod, Nat.mod_mod_of_dvd _ hdvd]

/-- The next byte's position lies in the block. -/
theorem State.position_lt (s : State) : s.bufbits / 8 < s.engine.blockBytes := by
  have hpos := s.engine.blockBytes_bounds.1
  have : s.bufbits < 8 * s.engine.blockBytes := Nat.mod_lt _ (by rw [Engine.blockBits]; omega)
  omega

section
variable {s : State} (haligned : s.bufbits % 8 = 0)
include haligned

/-- Before the block is full, BUFBITS has grown by the bits placed. -/
theorem State.bufbits_pushBytes_of_lt {bs : List Byte} (h : s.bufbits / 8 + bs.length < s.engine.blockBytes) :
    (s.pushBytes bs).bufbits = s.bufbits + 8 * bs.length := by
  rw [State.bufbits_pushBytes, Nat.mod_eq_of_lt (by rw [Engine.blockBits]; omega)]

/-- When the block is full, BUFBITS is 0. -/
theorem State.bufbits_pushBytes_of_full {bs : List Byte}
    (h : s.bufbits / 8 + bs.length = s.engine.blockBytes) : (s.pushBytes bs).bufbits = 0 := by
  rw [State.bufbits_pushBytes, show s.bufbits + 8 * bs.length = s.engine.blockBits by
    rw [Engine.blockBits]; omega, Nat.mod_self]

/-- One byte more placed, while there is room for it. -/
theorem State.pushByte_pushBytes {bs : List Byte} (h : s.bufbits / 8 + bs.length < s.engine.blockBytes)
    (b : Byte) : (s.pushBytes bs).pushByte b = s.pushBytes (bs ++ [b]) := by
  have hblk := putBytes_concat s.blk (s.bufbits / 8) bs b
  have hposition : (s.pushBytes bs).bufbits / 8 = s.bufbits / 8 + bs.length := by
    rw [State.bufbits_pushBytes_of_lt haligned h]; omega
  have htotlen : s.totlen + BitVec.ofNat 128 (8 * bs.length) + 8
      = s.totlen + BitVec.ofNat 128 (8 * (bs ++ [b]).length) := by
    rw [List.length_append, List.length_singleton, mul_add, BitVec.ofNat_add, BitVec.add_assoc]
    rfl
  rw [State.pushByte, hposition]
  simp only [State.pushBytes, hblk, htotlen]

/-- Bytes that do not fill the block are only placed (41_streaming.md R152). -/
theorem State.appendBytes_of_lt {bs : List Byte} (h : s.bufbits / 8 + bs.length < s.engine.blockBytes) :
    s.appendBytes bs = s.pushBytes bs := by
  induction bs using List.reverseRecOn with
  | nil => simp
  | append_singleton bs b ih =>
    have hbs : s.bufbits / 8 + bs.length < s.engine.blockBytes := by
      rw [List.length_append, List.length_singleton] at h; omega
    have hroom : (s.pushBytes (bs ++ [b])).bufbits ≠ 0 := by
      rw [State.bufbits_pushBytes_of_lt haligned h]; simp
    rw [State.appendBytes_append, ih hbs, State.appendBytes_cons, State.appendBytes_nil, State.appendByte,
      State.pushByte_pushBytes haligned hbs, State.compressIfFull, if_neg hroom]

/-- Bytes that fill the block are placed, and the block is compressed (41_streaming.md R152). -/
theorem State.appendBytes_of_full {bs : List Byte} (h : s.bufbits / 8 + bs.length = s.engine.blockBytes) :
    s.appendBytes bs = (s.pushBytes bs).runBlock (s.blk.toList.take (s.bufbits / 8) ++ bs) := by
  have hlast : bs ≠ [] := fun hnil => by simp [hnil, s.position_lt.ne] at h
  obtain ⟨before, b, rfl⟩ := (List.eq_nil_or_concat' bs).resolve_left hlast
  have hbefore : s.bufbits / 8 + before.length < s.engine.blockBytes := by
    rw [List.length_append, List.length_singleton] at h; omega
  have hblock : (s.pushBytes (before ++ [b])).block = s.blk.toList.take (s.bufbits / 8) ++ (before ++ [b]) := by
    rw [State.block, State.pushBytes_engine, State.pushBytes_blk, ← h,
      putBytes_take (h ▸ s.engine.blockBytes_bounds.2)]
  rw [State.appendBytes_append, State.appendBytes_of_lt haligned hbefore, State.appendBytes_cons,
    State.appendBytes_nil, State.appendByte, State.pushByte_pushBytes haligned hbefore, State.compressIfFull,
    if_pos (State.bufbits_pushBytes_of_full haligned h), hblock]

section
variable {xs ys : List Byte} (hfull : s.bufbits / 8 + xs.length = s.engine.blockBytes)
  (hnext : ys.length < s.engine.blockBytes)
include hfull hnext

/-- Bytes that fill the block and go on: the bytes left over start the next block (41_streaming.md R152). -/
theorem State.appendBytes_across :
    s.appendBytes (xs ++ ys) =
      ((s.pushBytes xs).runBlock (s.blk.toList.take (s.bufbits / 8) ++ xs)).pushBytes ys := by
  have hempty : ∀ P, ((s.pushBytes xs).runBlock P).bufbits = 0 := fun _ =>
    State.bufbits_pushBytes_of_full haligned hfull
  rw [State.appendBytes_append, State.appendBytes_of_full haligned hfull,
    State.appendBytes_of_lt (by rw [hempty])]
  rwa [hempty, Nat.zero_div, Nat.zero_add]

/-- BLK, byte by byte, after the block was filled: the bytes that filled it, the ones left over at its start,
and in between the consumed ones. -/
theorem blkByte_appendBytes_across (hbelow : ys.length ≤ s.bufbits / 8) {j : Nat} (hj : j < 128) :
    blkByte (s.appendBytes (xs ++ ys)) j =
      if s.bufbits / 8 ≤ j ∧ j < s.engine.blockBytes then xs.getD (j - s.bufbits / 8) 0
      else if j < ys.length then ys.getD j 0
      else blkByte s j := by
  have hempty : ∀ P, ((s.pushBytes xs).runBlock P).bufbits = 0 := fun _ =>
    State.bufbits_pushBytes_of_full haligned hfull
  rw [State.appendBytes_across haligned hfull hnext, blkByte_pushBytes _ _ hj, hempty,
    blkByte_eq_getElem _ j hj, State.runBlock_blk, ← blkByte_eq_getElem _ j hj, blkByte_pushBytes _ _ hj, hfull]
  simp only [Nat.zero_div, Nat.zero_le, Nat.zero_add, Nat.sub_zero, true_and]
  by_cases hover : j < ys.length
  · rw [if_pos hover, if_neg (by omega), if_pos hover]
  · rw [if_neg hover, if_neg hover]

end

end

/-! ### The command -/

/-- PHASE is not in BLK. -/
theorem blkByte_withPhase (s : State) (p : Phase) (j : Nat) : blkByte (s.withPhase p) j = blkByte s j := rfl

/-- The bytes ABSORB `n` takes are the first `n` of DIN's four (41_streaming.md R151). -/
theorem State.dinBytes_eq_take (s : State) {n : Nat} (hn : n ≤ 4) :
    s.dinBytes n = ((List.range 4).map fun k => s.din.extractLsb' (8 * k) 8).take n := by
  rw [State.dinBytes, ← List.map_take, List.take_range, Nat.min_eq_left hn]
  rfl

/-- Settles O30: the row of opcode 0x10 has a count, the branches are those of `exec_absorb`, and the bytes
either stay within the block, `State.appendBytes_of_lt`, or fill it, `State.appendBytes_across`. -/
theorem absorbAppendsItsBytes : Obligations.AbsorbAppendsItsBytes := by
  refine ⟨countCoded_of_opcodeForm rfl, fun n s hn => ?_⟩
  rw [exec_absorb hn]
  split_ifs
  · rfl
  · rfl
  · rfl
  intro hbytes size p din totlen
  have hbits : s.engine.blockBits = blockBitsOf s.mode := s.mode.engine_blockBits
  have hsize : size = s.engine.blockBytes := by simp only [size, ← hbits, Engine.blockBits]; omega
  have hp : p = s.bufbits / 8 := by simp only [p, ← hbits]; rfl
  have haligned : s.bufbits % 8 = 0 := by
    rw [State.bufbits, Engine.blockBits, Nat.mod_mul_right_mod, hbytes]
  have hdin : s.dinBytes n.toNat = din.take n.toNat := s.dinBytes_eq_take hn
  have hlen : (din.take n.toNat).length = n.toNat := by rw [← hdin, s.dinBytes_length]
  have htotlen : (s.appendBytes (din.take n.toNat)).totlen = totlen := by
    rw [State.appendBytes_totlen, hlen]
  rw [hdin, hp, hsize]
  split_ifs with hroom
  · rw [← hlen] at hroom
    rw [State.appendBytes_of_lt haligned hroom] at htotlen ⊢
    refine ⟨_, rfl, by rw [← htotlen]; rfl, fun j hj => ?_⟩
    rw [blkByte_withPhase, blkByte_pushBytes s _ hj, hlen]
    split_ifs with hin
    · exact getD_take_of_lt din (by omega)
    · rfl
  · have hposition := s.position_lt
    have hfour := s.engine.blockBytes_bounds.1
    generalize hr : s.engine.blockBytes - s.bufbits / 8 = room
    have hsplit : din.take n.toNat = din.take room ++ (din.take n.toNat).drop room := by
      conv_lhs => rw [← List.take_append_drop room (din.take n.toNat), List.take_take,
        Nat.min_eq_left (by omega)]
    have hover : ((din.take n.toNat).drop room).length = s.bufbits / 8 + n.toNat - s.engine.blockBytes := by
      rw [List.length_drop, hlen]; omega
    have hfull : s.bufbits / 8 + (din.take room).length = s.engine.blockBytes := by
      rw [List.length_take] at hlen ⊢; omega
    rw [hsplit] at htotlen ⊢
    refine ⟨_, rfl, ?_, fun j hj => ?_⟩
    · rw [← htotlen, State.appendBytes_across haligned hfull (by omega)]; rfl
    · rw [blkByte_withPhase, blkByte_appendBytes_across haligned hfull (by omega) (by omega) hj, hover]
      split_ifs with hin hstart
      · exact getD_take_of_lt din (by omega)
      · rw [List.getD_eq_getElem?_getD, List.getElem?_drop, ← List.getD_eq_getElem?_getD]
        exact getD_take_of_lt din (by omega)
      · rfl

end Machine

end Sys2Proof
end

section
/-! The block commands COMPRESS and EXPAND: one block run into H and W (42_block_engine.md R192 to R194). -/

open Sys2Proof.Claims

namespace Sys2Proof

/-- Zero-extended 32-bit words keep their high halves 0 (10_state.md R34, R38). -/
theorem zext64_getD_lt (ws : List Word32) (k : Nat) : ((zext64 ws).getD k 0).toNat < 2 ^ 32 := by
  have hext : (zext64 ws).getD k 0 = (ws.getD k 0).setWidth 64 :=
    List.getD_map ws 0 (BitVec.setWidth 64)
  rw [hext, BitVec.toNat_setWidth_of_le (by decide)]
  exact (ws.getD k 0).isLt

/-- The words a 32-bit engine returns have their high halves 0 (42_block_engine.md R194). -/
theorem Engine.compressWords_getD_lt {e : Engine} (he : e ≠ .sha512) (h : Vector Word64 8) (P : List Byte)
    (k : Nat) : ((e.compressWords h P).getD k 0).toNat < 2 ^ 32 := by
  cases e with
  | sha512 => exact absurd rfl he
  | md4 | md5 | sha0 | sha1 | sha256 => exact zext64_getD_lt _ k

/-- Every new chaining word of a 32-bit engine has its high half 0 (42_block_engine.md R194). -/
theorem Engine.chain_getElem_lt {e : Engine} (he : e ≠ .sha512) (h : Vector Word64 8) (P : List Byte)
    {i : Fin 8} (hi : i.val < e.stateWords) : (e.chain h P)[i].toNat < 2 ^ 32 := by
  rw [Fin.getElem_fin, e.chain_getElem h P i.val i.isLt, if_pos hi]
  exact compressWords_getD_lt he h P i.val

namespace Machine

/-- COMPRESS, its check and its effect (42_block_engine.md R192). -/
theorem exec_compress (s : State) :
    exec .compress s = if s.phase = .unconf then recorded s .noMode else .next (s.runBlock s.block) := rfl

/-- EXPAND, its check and its effect (42_block_engine.md R193). -/
theorem exec_expand (s : State) :
    exec .expand s =
      if s.phase = .unconf then recorded s .noMode
      else .next { s with w := s.engine.schedArray s.block } := rfl

/-- The block is the first BB/8 bytes of BLK (42_block_engine.md R192, R193). -/
theorem State.block_eq_take (s : State) : s.block = s.blk.toList.take (blockBitsOf s.mode / 8) := by
  rw [State.block, State.engine, ← Mode.engine_blockBits, Engine.blockBits,
    Nat.mul_div_cancel_left _ (by decide)]

/-- W as written. -/
theorem State.with_w_w (s : State) (v : Vector Word64 80) : { s with w := v }.w = v := rfl

/-- W, word by word, where it holds a block's schedule (42_block_engine.md R193, R194). -/
theorem wWord_of_w_eq_schedArray {t : State} {e : Engine} {P : List Byte} (h : t.w = e.schedArray P) {i : Nat}
    (hi : i < 80) : wWord t i = if i < e.steps then (e.sched P).getD i 0 else 0 := by
  rw [wWord, h, ← e.schedArray_getElem P i hi]
  simp [hi]

/-- Settles O42: the rows of opcodes 0x20 and 0x21 have no operands, and past the refusal `runBlock` leaves
`chain` in H and `schedArray` in W. -/
theorem blockCommandsRunOneBlock : Obligations.BlockCommandsRunOneBlock := by
  refine ⟨plainCoded_of_opcodeForm rfl, plainCoded_of_opcodeForm rfl, fun s => ?_⟩
  rw [exec_compress, exec_expand, ← State.block_eq_take]
  split_ifs
  · exact ⟨rfl, rfl⟩
  · refine ⟨⟨s.runBlock s.block, rfl, rfl, fun i => ?_, fun i => ?_, fun he i => ?_⟩, _, rfl, rfl, fun i => ?_⟩
    · exact s.engine.chain_getElem s.h s.block i.val i.isLt
    · exact wWord_of_w_eq_schedArray (s.runBlock_w s.block)
    · exact Engine.chain_getElem_lt he s.h s.block
    · exact wWord_of_w_eq_schedArray (s.with_w_w _)

end Machine

end Sys2Proof
end

section
/-! EXPAND in the MD4 and MD5 modes: the block word that each step reads (42_block_engine.md R193, R195;
43_md_engines.md R214, R216, R219, R223). -/

open Sys2Proof.Claims

namespace Sys2Proof

/-- A byte appended below a word is its least significant byte. -/
theorem toNat_append_byte {n : Nat} (x : BitVec n) (b : Byte) :
    (x ++ b).toNat = b.toNat + 256 * x.toNat := by
  rw [BitVec.toNat_append, ← Nat.shiftLeft_add_eq_or_of_lt b.isLt, Nat.shiftLeft_eq, Nat.add_comm,
    Nat.mul_comm]

/-- Four bytes in little-endian order, as one word (00_scope.md R8). -/
theorem ofNat_leVal_four (b0 b1 b2 b3 : Byte) :
    BitVec.ofNat 32 (leVal [b0, b1, b2, b3]) = b3 ++ b2 ++ b1 ++ b0 := by
  have hval : leVal [b0, b1, b2, b3] = (b3 ++ b2 ++ b1 ++ b0).toNat := by
    simp only [leVal, toNat_append_byte, Nat.mul_zero, Nat.add_zero]
  rw [hval, BitVec.ofNat_toNat, BitVec.setWidth_eq]

/-- Entry `i` of a schedule of zero-extended words given entry by entry. -/
theorem zext64_map_range_getD (f : Nat → Word32) {n i : Nat} (hi : i < n) :
    (zext64 ((List.range n).map f)).getD i 0 = (f i).setWidth 64 := by
  simp [zext64, List.getD_eq_getElem?_getD, hi]

/-- The message word MD4 step `i` reads: in order in round 0, by columns in round 1, with the four bits of
the position reversed in round 2 (43_md_engines.md R214). -/
theorem md4Index_eq {i : Nat} (hi : i < 48) :
    md4Index i =
      if i < 16 then i % 16
      else if i < 32 then 4 * (i % 16 % 4) + i % 16 / 4
      else 8 * (i % 16 % 2) + 4 * (i % 16 / 2 % 2) + 2 * (i % 16 / 4 % 2) + i % 16 / 8 := by
  revert i; decide

/-- The message word MD5 step `i` reads, by the round's arithmetic progression (43_md_engines.md R219). -/
theorem md5Index_eq {i : Nat} (hi : i < 64) :
    md5Index i =
      if i < 16 then i % 16
      else if i < 32 then (1 + 5 * (i % 16)) % 16
      else if i < 48 then (5 + 3 * (i % 16)) % 16
      else 7 * (i % 16) % 16 := by
  revert i; decide

/-- Every MD4 step reads one of the 16 message words. -/
theorem md4Index_lt {i : Nat} (hi : i < 48) : md4Index i < 16 := by
  rw [md4Index_eq hi]; split_ifs <;> omega

/-- Every MD5 step reads one of the 16 message words. -/
theorem md5Index_lt {i : Nat} (hi : i < 64) : md5Index i < 16 := by
  rw [md5Index_eq hi]; split_ifs <;> omega

namespace Machine

/-- A stretch of the engine's block is that stretch of BLK (10_state.md R35). -/
theorem State.block_drop_take (s : State) {p n : Nat} (h : p + n ≤ s.engine.blockBytes) :
    (s.block.drop p).take n = (List.range n).map fun k => blkByte s (p + k) := by
  have hlen := s.block_length
  have hblk := s.engine.blockBytes_bounds.2
  refine List.ext_getElem (by simp; omega) fun k hk _ => ?_
  rw [List.length_take] at hk
  rw [List.getElem_map, List.getElem_range, blkByte_eq_getElem s _ (by omega)]
  simp [State.block]

/-- Block word `j` of an engine that is little-endian (20_memory.md R78; 42_block_engine.md R195). -/
theorem State.words32_getD_of_littleEndian {s : State} (hle : s.engine.littleEndian = true) {j : Nat}
    (hj : j < 16) : (s.engine.words32 s.block).getD j 0 = leBlockWord s j := by
  have hsize : s.engine.blockBytes = 64 := by
    revert hle; cases s.engine <;> decide
  rw [← List.getElem_eq_getD (h := by simpa using hj)]
  simp only [Engine.words32, List.getElem_map, chunks_getElem, Engine.wordVal, if_pos hle]
  rw [s.block_drop_take (by omega)]
  exact ofNat_leVal_four _ _ _ _

/-- Entry `i` of the MD4 schedule of the block in BLK (43_md_engines.md R216). -/
theorem State.sched_getD_of_md4 {s : State} (he : s.engine = .md4) {i : Nat} (hi : i < 48) :
    (s.engine.sched s.block).getD i 0 = (leBlockWord s (md4Index i)).setWidth 64 := by
  rw [← State.words32_getD_of_littleEndian (by rw [he]; rfl) (md4Index_lt hi), he]
  exact zext64_map_range_getD _ hi

/-- Entry `i` of the MD5 schedule of the block in BLK (43_md_engines.md R223). -/
theorem State.sched_getD_of_md5 {s : State} (he : s.engine = .md5) {i : Nat} (hi : i < 64) :
    (s.engine.sched s.block).getD i 0 = (leBlockWord s (md5Index i)).setWidth 64 := by
  rw [← State.words32_getD_of_littleEndian (by rw [he]; rfl) (md5Index_lt hi), he]
  exact zext64_map_range_getD _ hi

/-- Settles O44: W is the engine's schedule, 0 past NS by `wWord_of_w_eq_schedArray`; its entries are block
words, `State.sched_getD_of_md4` and `State.sched_getD_of_md5`, at the indices of `md4Index_eq` and
`md5Index_eq`. -/
theorem expandListsTheMdMessageWords : Obligations.ExpandListsTheMdMessageWords := by
  intro s hphase hmode
  refine ⟨{ s with w := s.engine.schedArray s.block }, by rw [exec_expand, if_neg hphase], rfl,
    fun i hi => ?_⟩
  intro p bitrev k4 k5
  rw [wWord_of_w_eq_schedArray (s.with_w_w _) hi]
  obtain hmode | hmode := hmode
  · have he : s.engine = .md4 := congrArg Mode.engine hmode
    have hsteps : s.engine.steps = 48 := by rw [he]; rfl
    rw [if_pos hmode, hsteps]
    refine if_ctx_congr Iff.rfl (fun hstep => ?_) fun _ => rfl
    rw [State.sched_getD_of_md4 he hstep, md4Index_eq hstep]
  · have he : s.engine = .md5 := congrArg Mode.engine hmode
    have hsteps : s.engine.steps = 64 := by rw [he]; rfl
    rw [if_neg (show s.mode ≠ .md4 by rw [hmode]; decide), hsteps]
    refine if_ctx_congr Iff.rfl (fun hstep => ?_) fun _ => rfl
    rw [State.sched_getD_of_md5 he hstep, md5Index_eq hstep]

end Machine

end Sys2Proof
end

section
/-! EXPAND in the SHA modes: the schedules as recurrences on W (42_block_engine.md R193, R195;
44_sha_engines.md R241, R247, R252). -/

open Sys2Proof.Claims

namespace Sys2Proof

/-! ### A grown schedule, entry by entry -/

section Recurrence

variable {n k : Nat} {next : List (BitVec n) → BitVec n} {ws : List (BitVec n)} {f : Nat → BitVec n}
  (hlen : ws.length = 16) (hf : ∀ i, i < 16 + k → f i = (extendSched next k ws).getD i 0)
include hlen hf

/-- A schedule's first 16 entries are the words it starts from. -/
theorem entry_extendSched_of_lt {i : Nat} (hi : i < 16) : f i = ws.getD i 0 := by
  rw [hf i (by omega), List.getD_eq_getElem?_getD, extendSched_getElem?_of_lt next k ws i (by omega),
    ← List.getD_eq_getElem?_getD]

/-- A schedule's later entries are each the next word of the entries before. -/
theorem entry_extendSched_of_le {i : Nat} (hle : 16 ≤ i) (hlt : i < 16 + k) :
    f i = next ((List.range i).map f) := by
  have hlength := extendSched_length next k ws
  have htake : (extendSched next k ws).take i = (List.range i).map f := by
    refine List.ext_getElem (by simp; omega) fun j hj _ => ?_
    rw [List.length_take] at hj
    rw [List.getElem_take, List.getElem_map, List.getElem_range, hf j (by omega), List.getElem_eq_getD 0]
  rw [hf i hlt, List.getD_eq_getElem?_getD, extendSched_getElem? next k ws i (by omega) (by omega), htake,
    Option.getD_some]

end Recurrence

section Back

variable {n : Nat} (f : Nat → BitVec n) {t : Nat}

/-- `W[t-j]` where the schedule so far is `f 0, …, f (t-1)`. -/
theorem schedBack_map_range {j : Nat} (hj : 1 ≤ j) (hjt : j ≤ t) :
    schedBack ((List.range t).map f) j = f (t - j) := by
  rw [schedBack, List.length_map, List.length_range, List.getD_eq_getElem?_getD, List.getElem?_map,
    List.getElem?_range (by omega), Option.map_some, Option.getD_some]

/-- The next word of a SHA-2 schedule, by index (44_sha_engines.md R247, R252). -/
theorem sha2Next_map_range (sigma0 sigma1 : BitVec n → BitVec n) (ht : 16 ≤ t) :
    sha2Next sigma0 sigma1 ((List.range t).map f) =
      sigma1 (f (t - 2)) + f (t - 7) + sigma0 (f (t - 15)) + f (t - 16) := by
  rw [sha2Next, schedBack_map_range, schedBack_map_range, schedBack_map_range, schedBack_map_range] <;> omega

/-- The four taps of SHA-0 and SHA-1, by index (44_sha_engines.md R241). -/
theorem sha1Taps_map_range (f : Nat → Word32) (ht : 16 ≤ t) :
    sha1Taps ((List.range t).map f) = f (t - 3) ^^^ f (t - 8) ^^^ f (t - 14) ^^^ f (t - 16) := by
  rw [sha1Taps, schedBack_map_range, schedBack_map_range, schedBack_map_range, schedBack_map_range] <;> omega

end Back

/-- The next word of the SHA-0 or SHA-1 schedule: the rotation is their only difference
(44_sha_engines.md R241). -/
def sha1Next (m : Mode) (ws : List Word32) : Word32 :=
  if m = .sha1 then (sha1Taps ws).rotateLeft 1 else sha1Taps ws

/-- Both schedules as one recurrence (44_sha_engines.md R241). -/
theorem Mode.sched_eq_sha1Next {m : Mode} (hmode : m = .sha0 ∨ m = .sha1) (P : List Byte) :
    m.engine.sched P = zext64 (extendSched (sha1Next m) 64 (m.engine.words32 P)) := by
  obtain rfl | rfl := hmode <;> rfl

/-- Entry `i` of zero-extended words. -/
theorem zext64_getD (ws : List Word32) (i : Nat) : (zext64 ws).getD i 0 = (ws.getD i 0).setWidth 64 :=
  List.getD_map ws 0 (BitVec.setWidth 64)

/-! ### Big-endian block words -/

/-- Eight bytes in big-endian order, as one word (00_scope.md R8). -/
theorem ofNat_beVal_eight (b0 b1 b2 b3 b4 b5 b6 b7 : Byte) :
    BitVec.ofNat 64 (beVal [b0, b1, b2, b3, b4, b5, b6, b7]) =
      (b0 ++ b1 ++ b2 ++ b3) ++ (b4 ++ b5 ++ b6 ++ b7) := by
  have hval : beVal [b0, b1, b2, b3, b4, b5, b6, b7] =
      ((b0 ++ b1 ++ b2 ++ b3) ++ (b4 ++ b5 ++ b6 ++ b7)).toNat := by
    rw [BitVec.toNat_append (b0 ++ b1 ++ b2 ++ b3), ← Nat.shiftLeft_add_eq_or_of_lt (BitVec.isLt _),
      Nat.shiftLeft_eq]
    simp only [beVal, List.reverse_cons, List.reverse_nil, List.nil_append, List.cons_append, leVal,
      toNat_append_byte]
    omega
  rw [hval, BitVec.ofNat_toNat, BitVec.setWidth_eq]

namespace Machine

/-- Block word `j` of a 32-bit engine that is big-endian (20_memory.md R78; 42_block_engine.md R195). -/
theorem State.words32_getD_of_bigEndian {s : State} (he : s.engine ≠ .sha512)
    (hbe : s.engine.littleEndian = false) {j : Nat} (hj : j < 16) :
    (s.engine.words32 s.block).getD j 0 = beBlockWord s j := by
  have hsize : s.engine.blockBytes = 64 := by
    revert he; cases s.engine <;> decide
  rw [← List.getElem_eq_getD (h := by simpa using hj)]
  simp only [Engine.words32, List.getElem_map, chunks_getElem, Engine.wordVal, hbe]
  rw [s.block_drop_take (by omega)]
  exact ofNat_leVal_four _ _ _ _

/-- Block word `j` of the SHA-512 engine (20_memory.md R78; 42_block_engine.md R195). -/
theorem State.words64_getD {s : State} (he : s.engine = .sha512) {j : Nat} (hj : j < 16) :
    (s.engine.words64 s.block).getD j 0 = beBlockWord64 s j := by
  have hsize : s.engine.blockBytes = 128 := by rw [he]; rfl
  have hbe : s.engine.littleEndian = false := by rw [he]; rfl
  rw [← List.getElem_eq_getD (h := by simpa using hj)]
  simp only [Engine.words64, List.getElem_map, chunks_getElem, Engine.wordVal, hbe]
  rw [s.block_drop_take (by omega), beBlockWord64, beBlockWord, beBlockWord,
    show 4 * (2 * j) = 8 * j by omega, show 4 * (2 * j + 1) = 8 * j + 4 by omega]
  exact ofNat_beVal_eight _ _ _ _ _ _ _ _

/-! ### EXPAND -/

/-- The state EXPAND leaves when a mode is set (42_block_engine.md R193). -/
def State.expanded (s : State) : State := { s with w := s.engine.schedArray s.block }

theorem exec_expand_of_configured {s : State} (hphase : s.phase ≠ .unconf) :
    exec .expand s = .next s.expanded := by
  rw [exec_expand, if_neg hphase, State.expanded]

/-- W after EXPAND is the schedule, 0 past its end (42_block_engine.md R193). -/
theorem State.wWord_expanded (s : State) {i : Nat} (hi : i < 80) :
    wWord s.expanded i = (s.engine.sched s.block).getD i 0 := by
  simp [wWord, State.expanded, Engine.schedArray, hi]

section Words32

variable {s : State} {ws : List Word32} (hsched : s.engine.sched s.block = zext64 ws) {i : Nat} (hi : i < 80)
include hsched hi

theorem State.wWord_expanded_lt : (wWord s.expanded i).toNat < 2 ^ 32 := by
  rw [s.wWord_expanded hi, hsched]
  exact zext64_getD_lt ws i

theorem State.wLow_expanded : wLow s.expanded i = ws.getD i 0 := by
  rw [wLow, s.wWord_expanded hi, hsched, zext64_getD, BitVec.setWidth_setWidth_of_le _ (by decide),
    BitVec.setWidth_eq]

end Words32

/-- Settles O45: both schedules are the recurrence of `sha1Next` from the block's words, which
`sha1Taps_map_range` reads by index. -/
theorem expandFollowsTheSha1Recurrence : Obligations.ExpandFollowsTheSha1Recurrence := by
  intro s hphase hmode
  have hsched : s.engine.sched s.block = zext64 (extendSched (sha1Next s.mode) 64 (s.engine.words32 s.block)) :=
    Mode.sched_eq_sha1Next hmode s.block
  have hlen := s.engine.words32_length s.block
  have hw := fun i (hi : i < 16 + 64) => State.wLow_expanded hsched hi
  refine ⟨s.expanded, exec_expand_of_configured hphase, rfl, fun i => State.wWord_expanded_lt hsched,
    fun i hi => ?_, fun i hle hlt => ?_⟩
  · obtain ⟨hne, hbe⟩ : s.engine ≠ .sha512 ∧ s.engine.littleEndian = false := by
      obtain hmode | hmode := hmode <;> rw [State.engine, hmode] <;> decide
    rw [entry_extendSched_of_lt hlen hw hi, State.words32_getD_of_bigEndian hne hbe hi]
  · rw [entry_extendSched_of_le hlen hw hle hlt, sha1Next, sha1Taps_map_range _ hle]

/-- Settles O46: the schedule is 48 steps of `sha2Next` from the block's words, which `sha2Next_map_range`
reads by index; past its 64 words W is 0. -/
theorem expandFollowsTheSha256Recurrence : Obligations.ExpandFollowsTheSha256Recurrence := by
  intro s hphase hmode
  have he : s.engine = .sha256 := hmode.elim (congrArg Mode.engine) (congrArg Mode.engine)
  have hsched : s.engine.sched s.block = zext64 (schedSha256 (s.engine.words32 s.block)) := by rw [he]; rfl
  have hlen := s.engine.words32_length s.block
  have hw := fun i (hi : i < 16 + 48) => State.wLow_expanded hsched (i := i) (by omega)
  refine ⟨s.expanded, exec_expand_of_configured hphase, rfl, fun i => State.wWord_expanded_lt hsched,
    fun i hi => ?_, fun i hle hlt => ?_, fun i hle hlt => ?_⟩
  · rw [entry_extendSched_of_lt hlen hw hi,
      State.words32_getD_of_bigEndian (by rw [he]; decide) (by rw [he]; rfl) hi]
  · rw [s.wWord_expanded hlt, List.getD_eq_default _ _ (by rw [Engine.sched_length, he]; exact hle)]
  · exact (entry_extendSched_of_le hlen hw hle hlt).trans (sha2Next_map_range _ _ _ hle)

/-- Settles O47: the schedule is 64 steps of `sha2Next` from the block's 64-bit words, which
`sha2Next_map_range` reads by index. -/
theorem expandFollowsTheSha512Recurrence : Obligations.ExpandFollowsTheSha512Recurrence := by
  intro s hphase hmode
  have he : s.engine = .sha512 := (Mode.engine_eq_sha512 s.mode).2 hmode
  have hsched : s.engine.sched s.block = schedSha512 (s.engine.words64 s.block) := by rw [he]; rfl
  have hlen := s.engine.words64_length s.block
  have hw := fun i (hi : i < 16 + 64) => (s.wWord_expanded hi).trans (by rw [hsched])
  refine ⟨s.expanded, exec_expand_of_configured hphase, rfl, fun i hi => ?_, fun i hle hlt => ?_⟩
  · rw [entry_extendSched_of_lt hlen hw hi, State.words64_getD he hi]
  · exact (entry_extendSched_of_le hlen hw hle hlt).trans (sha2Next_map_range _ _ _ hle)

end Machine

end Sys2Proof
end

section
/-! The SHA-2 tables as root fractions of the first primes (40_control.md R122; 44_sha_engines.md R248, R253). -/

open Sys2Proof.Claims

namespace Sys2Proof

/-- Of a proper divisor and its cofactor one is below the square root. -/
theorem exists_divisor_lt_of_lt_sq {p d n : Nat} (hp : p < n * n) (htwo : 2 ≤ d) (hlt : d < p) (hdvd : d ∣ p) :
    ∃ e, e < n ∧ 2 ≤ e ∧ e < p ∧ e ∣ p := by
  obtain ⟨c, rfl⟩ := hdvd
  obtain hn | hn := lt_or_lt_of_mul_lt_mul hp
  · exact ⟨d, hn, htwo, hlt, Nat.dvd_mul_right d c⟩
  · have hc : 1 < c := (lt_mul_iff_one_lt_right (by omega)).1 hlt
    exact ⟨c, hn, hc, (lt_mul_iff_one_lt_left (by omega)).2 htwo, Nat.dvd_mul_left c d⟩

/-- Trial division needs the divisors up to the square root only. -/
theorem primesBelow_eq_filter_of_le_sq {bound n : Nat} (hbound : bound ≤ n * n) :
    primesBelow bound =
      (List.range bound).filter fun p => 2 ≤ p && (List.range n).all fun d => d < 2 || p ≤ d || p % d ≠ 0 := by
  refine List.filter_congr fun p hp => congrArg _ ?_
  rw [List.mem_range] at hp
  rw [Bool.eq_iff_iff]
  simp only [List.all_eq_true, List.mem_range, Bool.or_eq_true, decide_eq_true_eq]
  refine ⟨fun h d _ => ?_, fun h d hd => ?_⟩
  · obtain hd | hd := Nat.lt_or_ge d p
    · exact (h d hd).imp_left .inl
    · exact .inl (.inr hd)
  · by_contra! hdiv
    obtain ⟨htwo, hmod⟩ := hdiv
    obtain ⟨e, hn, hetwo, hlt, hdvd⟩ :=
      exists_divisor_lt_of_lt_sq (hp.trans_le hbound) htwo hd (Nat.dvd_of_mod_eq_zero hmod)
    have hemod := Nat.mod_eq_zero_of_dvd hdvd
    obtain (h | h) | h := h e hn <;> omega

/-- The first 80 primes, which 44_sha_engines.md R248 and R253 take cube roots of. -/
def firstPrimes : List Nat :=
  [2, 3, 5, 7, 11, 13, 17, 19, 23, 29, 31, 37, 41, 43, 47, 53, 59, 61, 67, 71, 73, 79, 83, 89, 97, 101, 103,
    107, 109, 113, 127, 131, 137, 139, 149, 151, 157, 163, 167, 173, 179, 181, 191, 193, 197, 199, 211, 223,
    227, 229, 233, 239, 241, 251, 257, 263, 269, 271, 277, 281, 283, 293, 307, 311, 313, 317, 331, 337, 347,
    349, 353, 359, 367, 373, 379, 383, 389, 397, 401, 409]

/-- They are all the primes below 410, found with trial divisors up to 20. -/
theorem primesBelow_410 : primesBelow 410 = firstPrimes := by
  rw [primesBelow_eq_filter_of_le_sq (n := 21) (by decide)]
  decide +kernel

/-- The SHA-2 initial values as square-root fractions (40_control.md R122 note (b)). -/
theorem ivs_areSquareRootFractions (i : Fin 8) :
    isRootFraction 2 32 (firstPrimes.getD i.val 0) (iv256.getD i.val 0).toNat = true
      ∧ isRootFraction 2 64 (firstPrimes.getD i.val 0) (iv512.getD i.val 0).toNat = true
      ∧ isRootFraction 2 64 (firstPrimes.getD (i.val + 8) 0) (iv384.getD i.val 0).toNat = true
      ∧ (iv224.getD i.val 0).toNat = (iv384.getD i.val 0).toNat % 2 ^ 32 := by
  revert i; decide

/-- K256 as cube-root fractions (44_sha_engines.md R248). -/
theorem sha256Const_areCubeRootFractions (t : Fin 64) :
    isRootFraction 3 32 (firstPrimes.getD t.val 0) (sha256Const.getD t.val 0).toNat = true := by
  revert t; decide

/-- K512 as cube-root fractions (44_sha_engines.md R253). -/
theorem sha512Const_areCubeRootFractions (t : Fin 80) :
    isRootFraction 3 64 (firstPrimes.getD t.val 0) (sha512Const.getD t.val 0).toNat = true := by
  revert t; decide

/-- Settles O28: the primes below 410 are `firstPrimes`, and each table is checked against them. -/
theorem sha2TablesAreRootFractions : Obligations.Sha2TablesAreRootFractions := by
  unfold Obligations.Sha2TablesAreRootFractions
  rw [primesBelow_410]
  exact ⟨rfl, rfl, rfl, rfl, rfl, rfl, rfl, ivs_areSquareRootFractions, sha256Const_areCubeRootFractions,
    sha512Const_areCubeRootFractions⟩

end Sys2Proof
end

section
/-! The words of the ALU commands, and what R holds after a result of w bits is written
(45_word_alu.md R290). -/

open Sys2Proof.Claims

namespace Sys2Proof

/-- A width code says the width (30_encoding.md R96). -/
theorem Width.bits_eq (w : Width) : w.bits = 8 * 2 ^ w.code.toNat := by
  cases w <;> rfl

/-- A row of the map with a width in F1. -/
theorem widthCoded_of_opcodeForm {opc : Nat} {mk : Width → Instr}
    (h : opcodeForm (BitVec.ofNat 8 opc) = some (.width mk)) : widthCoded opc mk := by
  intro v hopc
  have hform := (opcodeForm_fieldOpc hopc).trans h
  refine decode_rsv_or hform fun hrsv => ?_
  have hdec := decode_width hform hrsv
  split_ifs at hdec ⊢
  · exact hdec
  · exact hdec
  · obtain ⟨w, hcode, hok⟩ := hdec
    exact ⟨w, hok, by rw [w.bits_eq, hcode, fieldF1_toNat_eq_f1Of]⟩

/-- The widest operand fills a 128-bit register (30_encoding.md R96). -/
theorem Width.bits_le (w : Width) : w.bits ≤ 128 := by
  cases w <;> decide

theorem Width.bits_pos (w : Width) : 0 < w.bits := by
  cases w <;> decide

/-- Every width is a number of bytes (30_encoding.md R96). -/
theorem Width.eight_dvd_bits (w : Width) : 8 ∣ w.bits := w.bits_eq ▸ Nat.dvd_mul_right _ _

/-- A result of w bits is held in R or RH as it is (45_word_alu.md R290). -/
theorem Width.toNat_ofNat {w : Width} {v : Nat} (hv : v < 2 ^ w.bits) : (BitVec.ofNat 128 v).toNat = v := by
  rw [BitVec.toNat_ofNat, Nat.mod_eq_of_lt]
  exact hv.trans_le (Nat.pow_le_pow_right two_pos w.bits_le)

/-- The bits of a result of w bits in R (45_word_alu.md R290). -/
theorem Width.getLsbD_ofNat {w : Width} {v : Nat} (hv : v < 2 ^ w.bits) (j : Nat) :
    (BitVec.ofNat 128 v).getLsbD j = v.testBit j := by
  rw [← BitVec.testBit_toNat, Width.toNat_ofNat hv]

namespace Machine
variable (s : State) (w : Width)

theorem State.opA_lt : s.opA w < 2 ^ w.bits := Nat.mod_lt _ (Nat.two_pow_pos _)

theorem State.opB_lt : s.opB w < 2 ^ w.bits := Nat.mod_lt _ (Nat.two_pow_pos _)

theorem State.opC_lt : s.opC w < 2 ^ w.bits := Nat.mod_lt _ (Nat.two_pow_pos _)

theorem State.carryIn_lt : s.carryIn < 2 := Nat.mod_lt _ two_pos

theorem State.amount_lt : s.amount w < w.bits := Nat.mod_lt _ w.bits_pos

@[simp] theorem State.opA_testBit (j : Nat) : (s.opA w).testBit j = (decide (j < w.bits) && s.a.getLsbD j) := by
  rw [State.opA, Nat.testBit_mod_two_pow, BitVec.testBit_toNat]

@[simp] theorem State.opB_testBit (j : Nat) : (s.opB w).testBit j = (decide (j < w.bits) && s.b.getLsbD j) := by
  rw [State.opB, Nat.testBit_mod_two_pow, BitVec.testBit_toNat]

end Machine

end Sys2Proof
end

section
/-! The ALU's arithmetic: sums, differences and products of w-bit operands (45_word_alu.md R291 to R295). -/

namespace Sys2Proof

/-- Two w-bit operands and a carry in sum to less than `2·2^w`, so CF is the sum's quotient by `2^w`
(45_word_alu.md R291, R292). -/
theorem carryOut_toNat {w : Width} {sum : Nat} (h : sum < 2 * 2 ^ w.bits) :
    (carryOut w sum).toNat = sum / 2 ^ w.bits := by
  have hquot : sum / 2 ^ w.bits < 2 := Nat.div_lt_of_lt_mul (by rwa [mul_comm])
  unfold carryOut
  generalize sum / 2 ^ w.bits = q at hquot ⊢
  interval_cases q <;> rfl

/-- A difference modulo `m` is the exact one, with `m` added when it borrows; what is taken away may be `m`
itself (45_word_alu.md R294). -/
theorem sub_emod_toNat {a y m : Nat} (ha : a < m) (hy : y ≤ m) :
    (((a : Int) - y) % m).toNat < m
      ∧ (((a : Int) - y) % m).toNat + y = a + (borrowOut a y).toNat * m := by
  obtain hlt | hge := Nat.lt_or_ge a y
  · have hborrow : borrowOut a y = true := decide_eq_true hlt
    rw [← Int.add_emod_right, Int.emod_eq_of_lt (by omega) (by omega), hborrow, Bool.toNat_true]
    omega
  · have hborrow : borrowOut a y = false := decide_eq_false (by omega)
    rw [Int.emod_eq_of_lt (by omega) (by omega), hborrow, Bool.toNat_false]
    omega

/-- The largest product with the largest carry in still fits in double width (45_word_alu.md R295). -/
theorem mul_add_lt_mul_self {a b c m : Nat} (ha : a < m) (hb : b < m) (hc : c < m) : a * b + c < m * m :=
  calc a * b + c < a * m + m := Nat.add_lt_add_of_le_of_lt (Nat.mul_le_mul_left a hb.le) hc
    _ = (a + 1) * m := (Nat.succ_mul a m).symm
    _ ≤ m * m := Nat.mul_le_mul_right m ha

namespace Machine
variable {s : State} {w : Width} {i : Instr}

/-- What a command leaves that stores an exact sum: `CF·2^w + R` is the sum (45_word_alu.md R291, R292). -/
theorem exec_leaves_sum {sum : Nat}
    (hexec : exec i s = .next ((s.withR (sum % 2 ^ w.bits)).withCF (carryOut w sum)))
    (hsum : sum < 2 * 2 ^ w.bits) :
    ∃ t, exec i s = .next t ∧ t = { s with r := t.r, cf := t.cf }
      ∧ t.r.toNat < 2 ^ w.bits ∧ t.cf.toNat * 2 ^ w.bits + t.r.toNat = sum := by
  have hlt : sum % 2 ^ w.bits < 2 ^ w.bits := Nat.mod_lt _ (Nat.two_pow_pos _)
  refine ⟨_, hexec, rfl, ?_⟩
  rw [State.withCF_r, State.withR_r, State.withCF_cf, Width.toNat_ofNat hlt, carryOut_toNat hsum]
  exact ⟨hlt, Nat.div_add_mod' _ _⟩

/-- What a command leaves that stores an exact difference: `a - y + CF·2^w`, CF the borrow
(45_word_alu.md R293, R294). -/
theorem exec_leaves_difference {a y : Nat}
    (hexec : exec i s = .next ((s.withR (((a : Int) - y) % 2 ^ w.bits).toNat).withCF (borrowOut a y)))
    (ha : a < 2 ^ w.bits) (hy : y ≤ 2 ^ w.bits) :
    ∃ t, exec i s = .next t ∧ t = { s with r := t.r, cf := t.cf }
      ∧ t.r.toNat < 2 ^ w.bits ∧ (t.cf = true ↔ a < y) ∧ t.r.toNat + y = a + t.cf.toNat * 2 ^ w.bits := by
  have hdiff := sub_emod_toNat ha hy
  rw [Nat.cast_pow, Nat.cast_ofNat] at hdiff
  refine ⟨_, hexec, rfl, ?_⟩
  rw [State.withCF_r, State.withR_r, State.withCF_cf, Width.toNat_ofNat hdiff.1]
  exact ⟨hdiff.1, decide_eq_true_iff, hdiff.2⟩

/-- BSUB takes b and the borrow in away as one number (45_word_alu.md R294). -/
theorem exec_bsub (w : Width) (s : State) :
    exec (.bsub w) s =
      .next ((s.withR (((s.opA w : Int) - (s.opB w + s.carryIn : Nat)) % 2 ^ w.bits).toNat).withCF
        (borrowOut (s.opA w) (s.opB w + s.carryIn))) := by
  rw [Nat.cast_add, ← sub_sub]
  rfl

/-- Settles O50: both commands store an exact sum, which two operands and a carry in keep below `2·2^w`. -/
theorem addsLeaveTheCarryOut : Obligations.AddsLeaveTheCarryOut := by
  refine ⟨widthCoded_of_opcodeForm rfl, widthCoded_of_opcodeForm rfl, fun w s => ?_⟩
  have ha := s.opA_lt w
  have hb := s.opB_lt w
  have hc := s.carryIn_lt
  exact ⟨exec_leaves_sum (sum := s.opA w + s.opB w) rfl (by omega),
    exec_leaves_sum (sum := s.opA w + s.opB w + s.carryIn) rfl (by omega)⟩

/-- Settles O51: both commands store an exact difference, and what BSUB takes away is at most `2^w`. -/
theorem subtractsLeaveTheBorrow : Obligations.SubtractsLeaveTheBorrow := by
  refine ⟨widthCoded_of_opcodeForm rfl, widthCoded_of_opcodeForm rfl, fun w s => ?_⟩
  have ha := s.opA_lt w
  have hb := s.opB_lt w
  have hc := s.carryIn_lt
  simp only [Nat.add_assoc]
  exact ⟨exec_leaves_difference (a := s.opA w) (y := s.opB w) rfl ha hb.le,
    exec_leaves_difference (exec_bsub w s) ha (by omega)⟩

/-- Settles O52: R and RH are the remainder and the quotient by `2^w` of a number below `2^w·2^w`. -/
theorem cmulMultipliesAndAdds : Obligations.CmulMultipliesAndAdds := by
  refine ⟨widthCoded_of_opcodeForm rfl, fun w s => ?_⟩
  have hlow : (s.opA w * s.opB w + s.opC w) % 2 ^ w.bits < 2 ^ w.bits := Nat.mod_lt _ (Nat.two_pow_pos _)
  have hhigh : (s.opA w * s.opB w + s.opC w) / 2 ^ w.bits < 2 ^ w.bits :=
    Nat.div_lt_of_lt_mul (mul_add_lt_mul_self (s.opA_lt w) (s.opB_lt w) (s.opC_lt w))
  refine ⟨_, rfl, rfl, ?_⟩
  rw [State.withRH_r, State.withR_r, State.withRH_rh, Width.toNat_ofNat hlow, Width.toNat_ofNat hhigh]
  exact ⟨hlow, hhigh, Nat.div_add_mod' _ _⟩

end Machine

end Sys2Proof
end

section
/-! The ALU's bit-moving and bitwise commands, bit by bit (45_word_alu.md R296 to R304). -/

namespace Sys2Proof

/-- A w-bit number has no bit at or above w. -/
theorem testBit_eq_false_of_le {w x j : Nat} (hx : x < 2 ^ w) (hj : w ≤ j) : x.testBit j = false :=
  Nat.testBit_lt_two_pow (hx.trans_le (Nat.pow_le_pow_right two_pos hj))

/-! ### Rotates (R296, R297) -/

section Rotate
variable {w x n : Nat}

theorem rotlNat_lt (hx : x < 2 ^ w) : rotlNat w x n < 2 ^ w := by
  unfold rotlNat
  split
  · exact hx
  · exact Nat.mod_lt _ (Nat.two_pow_pos w)

theorem rotrNat_lt (hx : x < 2 ^ w) : rotrNat w x n < 2 ^ w := by
  unfold rotrNat
  split
  · exact hx
  · exact Nat.mod_lt _ (Nat.two_pow_pos w)

/-- Bit `j` of a right rotate: of the bits `n + j` and `j - (w - n)`, which its two parts bring to place `j`,
one is below w, and that is bit `(j + n) mod w` (00_scope.md R7). -/
theorem testBit_rotrNat (hx : x < 2 ^ w) (hn : n < w) (j : Nat) :
    (rotrNat w x n).testBit j = (decide (j < w) && x.testBit ((j + n) % w)) := by
  obtain hj | hj := Nat.lt_or_ge j w
  case inr => simp [testBit_eq_false_of_le (rotrNat_lt hx) hj, hj]
  unfold rotrNat
  split
  case isTrue h0 => simp [h0, hj, Nat.mod_eq_of_lt hj]
  obtain hlow | hwrap := Nat.lt_or_ge (j + n) w
  · simp [hj, Nat.mod_eq_of_lt hlow, show ¬w - n ≤ j by omega, add_comm n j]
  · have hplace : (j + n) % w = j - (w - n) := by
      rw [Nat.mod_eq_sub_mod hwrap, Nat.mod_eq_of_lt (by omega)]
      omega
    simp [hj, hplace, show w - n ≤ j by omega, testBit_eq_false_of_le hx (show w ≤ n + j by omega)]

/-- A left rotate by `n` is the right rotate by `w - n` (00_scope.md R7). -/
theorem rotlNat_eq_rotrNat (hn0 : n ≠ 0) (hn : n < w) : rotlNat w x n = rotrNat w x (w - n) := by
  rw [rotlNat, rotrNat, if_neg hn0, if_neg (by omega), Nat.sub_sub_self hn.le, Nat.or_comm]

/-- Bit `j` of a left rotate (00_scope.md R7). -/
theorem testBit_rotlNat (hx : x < 2 ^ w) (hn : n < w) (j : Nat) :
    (rotlNat w x n).testBit j = (decide (j < w) && x.testBit ((j + w - n) % w)) := by
  by_cases hn0 : n = 0
  · have hrot : rotlNat w x n = rotrNat w x n := by rw [rotlNat, rotrNat, if_pos hn0, if_pos hn0]
    rw [hrot, testBit_rotrNat hx hn, hn0, Nat.sub_zero, Nat.add_mod_right, Nat.add_zero]
  · rw [rotlNat_eq_rotrNat hn0 hn, testBit_rotrNat hx (by omega), Nat.add_sub_assoc hn.le]

end Rotate

/-! ### Byte reversal (R300) -/

/-- Bit `j` of a little-endian number is bit `j mod 8` of its byte `j / 8` (00_scope.md R8). -/
theorem testBit_leVal (xs : List Byte) (j : Nat) :
    (leVal xs).testBit j = (xs.getD (j / 8) 0).getLsbD (j % 8) := by
  induction xs generalizing j with
  | nil => simp [leVal]
  | cons x xs ih =>
    rw [leVal, add_comm, show 256 = 2 ^ 8 from rfl, Nat.testBit_two_pow_mul_add _ x.isLt]
    split
    case isTrue hj => rw [Nat.div_eq_of_lt hj, Nat.mod_eq_of_lt hj, List.getD_cons_zero, BitVec.testBit_toNat]
    case isFalse hj =>
      rw [ih, show j / 8 = (j - 8) / 8 + 1 by omega, List.getD_cons_succ, show (j - 8) % 8 = j % 8 by omega]

/-- Byte `k` of a big-endian serialization. -/
theorem serBe_getD {n k : Nat} (hk : k < n) (v : Nat) :
    (serBe n v).getD k 0 = BitVec.ofNat 8 (v / 256 ^ (n - 1 - k)) := by
  rw [serBe, List.getD_eq_getElem?_getD, List.getElem?_reverse (by simpa using hk), serLe_length,
    ← List.getD_eq_getElem?_getD, serLe_getD, if_pos (by omega)]

theorem bswapNat_eq (w x : Nat) : bswapNat w x = leVal (serBe (w / 8) x) := rfl

theorem bswapNat_lt {w : Nat} (h8 : 8 ∣ w) (x : Nat) : bswapNat w x < 2 ^ w := by
  have hlt := leVal_lt (serBe (w / 8) x)
  rwa [serBe_length, show 256 = 2 ^ 8 from rfl, ← pow_mul, Nat.mul_div_cancel' h8] at hlt

/-- Bit `j` of a byte-reversed number comes from the mirrored byte (45_word_alu.md R300). -/
theorem testBit_bswapNat {w j : Nat} (hj : j / 8 < w / 8) (x : Nat) :
    (bswapNat w x).testBit j = x.testBit (8 * (w / 8 - 1 - j / 8) + j % 8) := by
  rw [bswapNat_eq, testBit_leVal, serBe_getD hj, BitVec.getLsbD_ofNat, show 256 = 2 ^ 8 from rfl, ← pow_mul,
    Nat.testBit_div_two_pow, add_comm]
  simp [Nat.mod_lt]

namespace Machine

/-- What a command leaves that stores a result of w bits in R, bit by bit (45_word_alu.md R290). -/
theorem exec_leaves_bits {i : Instr} {s : State} {v : Nat} (w : Width) {f : Nat → Bool}
    (hexec : exec i s = .next (s.withR v)) (hv : v < 2 ^ w.bits) (hf : ∀ j, v.testBit j = f j) :
    ∃ t, exec i s = .next t ∧ t = { s with r := t.r } ∧ ∀ j, t.r.getLsbD j = f j :=
  ⟨_, hexec, rfl, fun j => (Width.getLsbD_ofNat hv j).trans (hf j)⟩

/-- Settles O53: each command stores a w-bit number, whose bits are those of a rotated or shifted. -/
theorem rotatesAndShiftsMoveBits : Obligations.RotatesAndShiftsMoveBits := by
  refine ⟨widthCoded_of_opcodeForm rfl, widthCoded_of_opcodeForm rfl, widthCoded_of_opcodeForm rfl,
    widthCoded_of_opcodeForm rfl, fun w s => ?_⟩
  have ha := s.opA_lt w
  have hn := s.amount_lt w
  have hmod (k : Nat) : k % w.bits < w.bits := Nat.mod_lt k w.bits_pos
  refine ⟨exec_leaves_bits w rfl (rotlNat_lt ha) fun j => ?rotl,
    exec_leaves_bits w rfl (rotrNat_lt ha) fun j => ?rotr,
    exec_leaves_bits w rfl (Nat.mod_lt _ (Nat.two_pow_pos _)) fun j => ?shl,
    exec_leaves_bits w rfl ((Nat.shiftRight_le _ _).trans_lt ha) fun j => ?shr⟩
  case rotl => rw [testBit_rotlNat ha hn, State.opA_testBit, decide_eq_true (hmod _), Bool.true_and]; rfl
  case rotr => rw [testBit_rotrNat ha hn, State.opA_testBit, decide_eq_true (hmod _), Bool.true_and]; rfl
  case shl =>
    rw [Nat.testBit_mod_two_pow, Nat.testBit_shiftLeft, State.opA_testBit]
    change _ = (decide (s.amount w ≤ j ∧ j < w.bits) && s.a.getLsbD (j - s.amount w))
    by_cases hj : j < w.bits
    · simp [hj, show j - s.amount w < w.bits by omega]
    · simp [hj]
  case shr => rw [Nat.testBit_shiftRight, State.opA_testBit, add_comm]; rfl

/-- Settles O54: each command stores a w-bit number, whose bits are those of a and b combined, or of a with
its bytes mirrored. -/
theorem bswapAndLogicWorkBitByBit : Obligations.BswapAndLogicWorkBitByBit := by
  refine ⟨widthCoded_of_opcodeForm rfl, widthCoded_of_opcodeForm rfl, widthCoded_of_opcodeForm rfl,
    widthCoded_of_opcodeForm rfl, widthCoded_of_opcodeForm rfl, fun w s => ?_⟩
  have ha := s.opA_lt w
  have hb := s.opB_lt w
  refine ⟨exec_leaves_bits w rfl (bswapNat_lt w.eight_dvd_bits _) fun j => ?bswap,
    exec_leaves_bits w rfl (Nat.and_lt_two_pow _ hb) fun j => ?and,
    exec_leaves_bits w rfl (Nat.or_lt_two_pow ha hb) fun j => ?or,
    exec_leaves_bits w rfl (Nat.xor_lt_two_pow ha hb) fun j => ?xor,
    exec_leaves_bits w rfl (v := 2 ^ w.bits - 1 - s.opA w) (by omega) fun j => ?not⟩
  case bswap =>
    obtain hj | hj := Nat.lt_or_ge j w.bits
    · rw [testBit_bswapNat (Nat.div_lt_div_of_lt_of_dvd w.eight_dvd_bits hj), State.opA_testBit]
      simp [hj, show 8 * (w.bits / 8 - 1 - j / 8) + j % 8 < w.bits by omega]
    · simp [testBit_eq_false_of_le (bswapNat_lt w.eight_dvd_bits _) hj, hj]
  case and =>
    rw [Nat.testBit_and, State.opA_testBit, State.opB_testBit]
    cases decide (j < w.bits) <;> rfl
  case or => rw [Nat.testBit_or, State.opA_testBit, State.opB_testBit, Bool.and_or_distrib_left]
  case xor => rw [Nat.testBit_xor, State.opA_testBit, State.opB_testBit, Bool.and_xor_distrib_left]
  case not =>
    rw [Nat.sub_sub, Nat.add_comm 1, Nat.testBit_two_pow_sub_succ ha, State.opA_testBit]
    cases decide (j < w.bits) <;> rfl

end Machine

end Sys2Proof
end

section
/-! Encoding and decoding are inverse to each other (30_encoding.md R91, R93, R98, R99). -/

open Sys2Proof.Claims

namespace Sys2Proof

/-- A command word is read by the row of its opcode. -/
theorem decode_commandWord {opc : BitVec 8} {form : CommandForm} (h : opcodeForm opc = some form)
    (f1 f2 : BitVec 4) : decode (commandWord opc f1 f2) = form.read f1 f2 := by
  simp [decode, h]

/-- A row with a mode in F1 reads a mode's code as that mode. -/
theorem decode_mode_commandWord {opc : BitVec 8} {mk : Mode → Instr} (h : opcodeForm opc = some (.mode mk))
    (m : Mode) : decode (commandWord opc m.code 0) = .ok (mk m) := by
  simp [decode_commandWord h, CommandForm.read]

/-- A row without operands reads the word whose fields are 0. -/
theorem decode_plain_commandWord {opc : BitVec 8} {i : Instr} (h : opcodeForm opc = some (.plain i)) :
    decode (commandWord opc 0 0) = .ok i := by
  simp [decode_commandWord h, CommandForm.read]

/-- A row with a count in F2 reads a count in its range. -/
theorem decode_count_commandWord {opc : BitVec 8} {max : Nat} {mk : BitVec 4 → Instr}
    (h : opcodeForm opc = some (.count max mk)) {n : BitVec 4} (hn : n.toNat ≤ max) :
    decode (commandWord opc 0 n) = .ok (mk n) := by
  simp [decode_commandWord h, CommandForm.read, hn]

/-- A row with a width in F1 reads a width's code as that width. -/
theorem decode_width_commandWord {opc : BitVec 8} {mk : Width → Instr} (h : opcodeForm opc = some (.width mk))
    (w : Width) : decode (commandWord opc w.code 0) = .ok (mk w) := by
  simp [decode_commandWord h, CommandForm.read]

/-- Settles O1: the row of the command's opcode is of the kind the command has, and reads its own operand back. -/
theorem decodeOfEncodeIsTheCommand : Obligations.DecodeOfEncodeIsTheCommand := by
  intro i hwf
  cases i with
  | init m | initk m => exact decode_mode_commandWord rfl m
  | clrerr | final | compress | expand => exact decode_plain_commandWord rfl
  | absorb n | absorbbits n => exact decode_count_commandWord rfl (of_decide_eq_true hwf)
  | wadd w | cadd w | wsub w | bsub w | cmul w | rotl w | rotr w => exact decode_width_commandWord rfl w
  | shl w | shr w | bswap w | and w | or w | xor w | not w => exact decode_width_commandWord rfl w

/-- A form all of whose commands, with operands it accepts, are well-formed (30_encoding.md R98). -/
def CommandForm.WellFormed : CommandForm → Prop
  | .mode mk => ∀ m, (mk m).wellFormed = true
  | .plain i => i.wellFormed = true
  | .count max mk => ∀ n, n.toNat ≤ max → (mk n).wellFormed = true
  | .width mk => ∀ w, (mk w).wellFormed = true

/-- The count bounds of the opcode map are those of 30_encoding.md R98. -/
theorem opcodeForm_wellFormed {opc : BitVec 8} {form : CommandForm} (h : opcodeForm opc = some form) :
    form.WellFormed := by
  unfold opcodeForm at h
  split at h <;> cases h <;> simp [CommandForm.WellFormed, Instr.wellFormed]

/-- A command that decode answers is well-formed. -/
theorem wellFormed_of_decode_ok {v : Word32} {i : Instr} (h : decode v = .ok i) : i.wellFormed = true := by
  obtain ⟨form, hform, -, hread⟩ := decode_ok_cases h
  have hwf := opcodeForm_wellFormed hform
  obtain ⟨mk, m, rfl, -, -, rfl⟩ | ⟨rfl, -, -⟩ | ⟨max, mk, rfl, -, hn, rfl⟩ | ⟨mk, w, rfl, -, -, rfl⟩ :=
    CommandForm.read_ok_cases hread
  · exact hwf m
  · exact hwf
  · exact hwf _ hn
  · exact hwf w

/-- Settles O2: the rows of the opcode map accept well-formed commands only, and no bit of an accepted word is
ignored, `encode_of_decode_ok`. -/
theorem acceptedWordIsItsEncoding : Obligations.AcceptedWordIsItsEncoding :=
  fun _ _ h => ⟨wellFormed_of_decode_ok h, encode_of_decode_ok h⟩

/-- Settles O4: each word has the opcode and the operand codes of the row of 30_encoding.md R93 it stands for. -/
theorem wordsWrittenOutDecode : Obligations.WordsWrittenOutDecode :=
  ⟨rfl, rfl, rfl, rfl, rfl, rfl, rfl, rfl, rfl, rfl⟩

end Sys2Proof
end

section
/-! The register map, what a read answers, and what one step does (20_memory.md R62 to R74). -/

open Sys2Proof.Claims

namespace Sys2Proof

/-- A register found at a word offset has that byte offset (20_memory.md R62). -/
theorem PortReg.byteOffset_of_portReg {off : WordOffset} {r : PortReg} (h : portReg off = some r) :
    r.byteOffset = 4 * off.toNat := by
  unfold portReg at h
  extract_lets o at h
  have hword : o % 4 = 0 := Nat.mul_mod_right 4 _
  change r.byteOffset = o
  clear_value o
  obtain ⟨hlow, h⟩ | ⟨-, h⟩ := ite_eq_iff.1 h
  · obtain rfl | rfl | rfl | rfl | rfl | rfl : o = 0 ∨ o = 4 ∨ o = 8 ∨ o = 12 ∨ o = 16 ∨ o = 20 := by omega
    all_goals cases h; rfl
  simp only [ite_eq_iff, reduceCtorEq, and_false, false_or, or_false, Option.some.injEq] at h
  casesm* _ ∨ _, _ ∧ _
  all_goals
    subst r
    simp only [PortReg.byteOffset, Fin.val_ofNat]
    omega

/-- A register is found at its own offset only (20_memory.md R62). -/
theorem portReg_eq_some_iff {off : WordOffset} {r : PortReg} : portReg off = some r ↔ off = r.offset := by
  refine ⟨fun h => BitVec.eq_of_toNat_eq ?_, fun h => h ▸ portReg_offset r⟩
  have := PortReg.byteOffset_of_portReg h
  have := r.four_mul_offset_toNat
  omega

/-- Settles O11: `portReg_offset` in one direction, `PortReg.byteOffset_of_portReg` in the other. -/
theorem registerMapIsOneToOne : Obligations.RegisterMapIsOneToOne :=
  ⟨portReg_offset, fun _ _ => PortReg.byteOffset_of_portReg⟩

namespace Machine

/-- With nothing pending a step is idle (60_exceptions.md R349). -/
theorem step_of_pending_nil {s : State} (h : s.pending = []) : step s = .next s := by
  simp [step, State.nextEvent, h]

/-- A step performs the oldest pending event (20_memory.md R74). -/
theorem step_of_pending_cons {s : State} {e : PortEvent} {rest : List PortEvent} (h : s.pending = e :: rest) :
    step s = { s with pending := rest }.perform e := by
  simp [step, State.nextEvent, h]

/-- A step on a write to CMD issues the word written (10_state.md R22). -/
theorem step_of_pending_command {s : State} {v : Word32} {rest : List PortEvent}
    (h : s.pending = .write 0x001 v :: rest) : step s = { s with pending := rest }.issue v :=
  step_of_pending_cons h

/-- Settles O5: a step is its queue's first event. -/
theorem stepPerformsTheOldestAccess : Obligations.StepPerformsTheOldestAccess :=
  ⟨fun _ => step_of_pending_nil, fun _ _ _ => step_of_pending_cons⟩

/-- Settles O6: the write issues its word, and issuing runs what the word decodes to. -/
theorem stepRunsTheDecodedCommand : Obligations.StepRunsTheDecodedCommand := by
  intro s v i rest hpending hdec
  rw [step_of_pending_command hpending, State.issue, hdec]

/-- Settles O7: the write issues its word, and issuing a word that decode refuses records the code. -/
theorem refusedWordOnlyRecordsItsCode : Obligations.RefusedWordOnlyRecordsItsCode := by
  intro s v c rest hpending hdec
  rw [step_of_pending_command hpending, State.issue, hdec]
  rfl

/-- Inside the digest register, `dgByte` is the byte DG holds there. -/
theorem dgByte_eq_getElem (s : State) (n : Nat) (hn : n < 64) : dgByte s n = s.dg[n] := by
  simp [dgByte, hn]

/-- A port word of DG reads its four bytes, the last most significant (20_memory.md R66). -/
theorem State.readReg_dg (s : State) (j : Fin 16) :
    s.readReg (.dg j)
      = dgByte s (4 * j.val + 3) ++ dgByte s (4 * j.val + 2) ++ dgByte s (4 * j.val + 1)
        ++ dgByte s (4 * j.val) := by
  rw [dgByte_eq_getElem s _ (by omega), dgByte_eq_getElem s _ (by omega),
    dgByte_eq_getElem s _ (by omega), dgByte_eq_getElem s _ (by omega)]
  rfl

/-- BUFBITS by the block size 00_scope.md R5 lists. -/
theorem State.bufbits_eq (s : State) : s.bufbits = s.totlen.toNat % blockBitsOf s.mode := by
  rw [State.bufbits, State.engine, Mode.engine_blockBits]

/-- Settles O8: the read at a register's offset is `readReg`, whose equation is the statement's, the bytes of BLK
and DG lane by lane. -/
theorem readReturnsTheRegister : Obligations.ReadReturnsTheRegister := by
  refine ⟨fun s off rest h => step_of_pending_cons h, fun s r => ?_⟩
  rw [State.busRead_offset]
  cases r with
  | blk j => exact s.readReg_blk j
  | dg j => exact s.readReg_dg j
  | bufbits => exact congrArg (BitVec.ofNat 32) s.bufbits_eq
  | id => exact s.id.val_eq
  | cmd | status | outbits | din => rfl
  | totlen _ | a _ | b _ | c _ | r _ | rh _ | h _ _ | w _ _ => rfl

/-- After reset every register but ID reads 0 (70_reset_and_hazards.md R370). -/
theorem State.readReg_afterReset (s : State) (r : PortReg) :
    s.afterReset.readReg r = if r = .id then 0x53480007 else 0 := by
  cases r with
  | id | cmd | outbits | din | bufbits => rfl
  | status => exact (by decide : State.reset.statusWord = 0)
  | totlen k | a k | b k | c k | r k | rh k => exact BitVec.extractLsb'_zero
  | h i k => simp [State.readReg, wordOf]
  | w t k => simp [State.readReg, wordOf]
  | blk j | dg j => simp [State.readReg, lanes]

/-- After reset every offset but 0 reads 0 (70_reset_and_hazards.md R370). -/
theorem State.busRead_afterReset (s : State) (off : WordOffset) :
    s.afterReset.busRead off = if off = 0 then 0x53480007 else 0 := by
  have hid : off = 0 ↔ portReg off = some .id := (portReg_eq_some_iff (r := .id)).symm
  cases hreg : portReg off with
  | none => rw [State.busRead_reserved _ _ hreg, if_neg (by rw [hid, hreg]; simp)]
  | some r => simp only [hid, hreg, State.busRead, State.readReg_afterReset, Option.some.injEq]

/-- Settles O10: a step on a reset is `afterReset`, which every offset reads as `busRead_afterReset` says. -/
theorem resetOverwritesAllState : Obligations.ResetOverwritesAllState := by
  intro s rest h
  exact ⟨_, step_of_pending_cons h, rfl, rfl, State.busRead_afterReset _⟩

/-- A read-write register reads what was written to it, OUTBITS its 10 bits (20_memory.md R64, R65, R70, R71). -/
theorem State.readReg_writeReg_same (s : State) {r : PortReg} (v : Word32) (h : isReadWrite r = true) :
    (s.writeReg r v).readReg r = if r = .outbits then v &&& 0x3FF else v := by
  cases r with
  | id | cmd | status | bufbits | totlen _ | r _ | rh _ | dg _ | w _ _ => cases h
  | outbits =>
    show (v.setWidth 10).setWidth 32 = v &&& 0x3FF
    have hmask : v.toNat &&& 0x3FF = v.toNat % 0x400 := Nat.and_two_pow_sub_one_eq_mod v.toNat 10
    apply BitVec.eq_of_toNat_eq
    rw [BitVec.toNat_and, BitVec.toNat_setWidth, BitVec.toNat_setWidth]
    exact hmask ▸ Nat.mod_eq_of_lt (by omega)
  | din => rfl
  | a k | b k | c k => exact wordOf_withWord_same _ _ _ (by omega)
  | h i k =>
    simp [State.readReg, State.writeReg, wordOf_withWord_same _ _ _ (show 32 * k.val + 32 ≤ 64 by omega)]
  | blk j => exact lanes_withLanes_same (n := 32) _ _ _

/-- A write to one word of a chaining register leaves every other word of H (20_memory.md R64). -/
theorem wordOf_set_withWord_ne (x : Vector Word64 8) (v : Word32) {i j : Fin 8} {k l : Fin 2}
    (h : PortReg.h j l ≠ PortReg.h i k) :
    wordOf (x.set i.val (withWord x[i] k.val v) i.isLt)[j] l.val = wordOf x[j] l.val := by
  rw [Fin.getElem_fin, Vector.getElem_set]
  split_ifs with hij
  · obtain rfl := Fin.ext hij
    exact wordOf_withWord_ne _ _ _ _ fun hkl => h (congrArg _ (Fin.ext hkl.symm))
  · rfl

/-- A write to one register is read at no other (20_memory.md R64, R65). -/
theorem State.readReg_writeReg_ne (s : State) {r q : PortReg} (v : Word32) (h : q ≠ r) :
    (s.writeReg r v).readReg q = s.readReg q := by
  cases r with
  | id | cmd | status | bufbits | totlen _ | r _ | rh _ | dg _ | w _ _ => rfl
  | outbits =>
    cases q with
    | outbits => exact absurd rfl h
    | _ => rfl
  | din =>
    cases q with
    | din => exact absurd rfl h
    | _ => rfl
  | a k =>
    cases q with
    | a l => exact wordOf_withWord_ne _ _ _ _ fun hkl => h (congrArg _ (Fin.ext hkl.symm))
    | _ => rfl
  | b k =>
    cases q with
    | b l => exact wordOf_withWord_ne _ _ _ _ fun hkl => h (congrArg _ (Fin.ext hkl.symm))
    | _ => rfl
  | c k =>
    cases q with
    | c l => exact wordOf_withWord_ne _ _ _ _ fun hkl => h (congrArg _ (Fin.ext hkl.symm))
    | _ => rfl
  | h i k =>
    cases q with
    | h j l => exact wordOf_set_withWord_ne s.h v h
    | _ => rfl
  | blk j =>
    cases q with
    | blk l => exact lanes_withLanes_ne (n := 32) _ _ _ _ fun hjl => h (congrArg _ hjl)
    | _ => rfl

/-- Settles O12: at a register's offset the write is `writeReg` and the read `readReg`, and another offset is that
of another register or of none. -/
theorem writeChangesOnlyItsWord : Obligations.WriteChangesOnlyItsWord := by
  intro s r v hrw
  have hcmd : r ≠ .cmd := fun h => by simp [h, isReadWrite] at hrw
  refine ⟨s.writeReg r v, s.busWrite_offset r v hcmd, ?_, fun off hoff => ?_⟩
  · rw [State.busRead_offset, s.readReg_writeReg_same v hrw]
  · cases hreg : portReg off with
    | none => rw [State.busRead_reserved _ _ hreg, State.busRead_reserved _ _ hreg]
    | some q =>
      obtain rfl := portReg_eq_some_iff.1 hreg
      rw [State.busRead_offset, State.busRead_offset, s.readReg_writeReg_ne v fun h => hoff (congrArg _ h)]

end Machine

end Sys2Proof
end

section
/-! The STATUS word, bit by bit (10_state.md R23). -/

open Sys2Proof.Claims

namespace Sys2Proof.Machine

/-- Each bit of STATUS belongs to one field, or is reserved and 0 (10_state.md R23). -/
theorem State.statusWord_getLsbD (s : State) (b : Nat) :
    s.statusWord.getLsbD b =
      if b < 3 then s.phase.code.getLsbD b
      else if b = 3 then s.err
      else if b < 8 then (errcodeBits s.errcode).getLsbD (b - 4)
      else if b < 12 then s.mode.code.getLsbD (b - 8)
      else if b = 12 then s.bitpend
      else if b = 13 then s.custom
      else if b = 16 then s.cf
      else false := by
  simp only [State.statusWord, BitVec.getLsbD_append, BitVec.getLsbD_ofBool, Nat.sub_sub]
  obtain h | rfl | h | h | rfl | rfl | h | rfl | h : b < 3 ∨ b = 3 ∨ (4 ≤ b ∧ b < 8) ∨ (8 ≤ b ∧ b < 12)
      ∨ b = 12 ∨ b = 13 ∨ (14 ≤ b ∧ b < 16) ∨ b = 16 ∨ 17 ≤ b := by omega
  all_goals simp (disch := omega) only [if_pos, if_neg]
  all_goals simp

/-- A field of a word, from its bits. -/
theorem extractLsb'_eq_of_getLsbD {n k m : Nat} {x : BitVec n} {y : BitVec m}
    (h : ∀ i, i < m → x.getLsbD (k + i) = y.getLsbD i) : x.extractLsb' k m = y :=
  BitVec.eq_of_getLsbD_eq fun i hi => by simp [hi, h i hi]

section
variable (s : State)

/-- STATUS.PHASE is STATUS[2:0]. -/
theorem State.statusWord_phase : s.statusWord.extractLsb' 0 3 = s.phase.code :=
  extractLsb'_eq_of_getLsbD fun i hi => by
    simp (disch := omega) only [State.statusWord_getLsbD, if_pos, Nat.zero_add]

/-- STATUS.ERRCODE is STATUS[7:4]. -/
theorem State.statusWord_errcode : s.statusWord.extractLsb' 4 4 = errcodeBits s.errcode :=
  extractLsb'_eq_of_getLsbD fun i hi => by
    simp (disch := omega) only [State.statusWord_getLsbD, if_pos, if_neg, Nat.add_sub_cancel_left]

/-- STATUS.MODE is STATUS[11:8]. -/
theorem State.statusWord_mode : s.statusWord.extractLsb' 8 4 = s.mode.code :=
  extractLsb'_eq_of_getLsbD fun i hi => by
    simp (disch := omega) only [State.statusWord_getLsbD, if_pos, if_neg, Nat.add_sub_cancel_left]

/-- STATUS[15:14] is reserved. -/
theorem State.statusWord_reserved_low : s.statusWord.extractLsb' 14 2 = 0 :=
  extractLsb'_eq_of_getLsbD fun i hi => by
    simp (disch := omega) only [State.statusWord_getLsbD, if_neg]
    simp

/-- STATUS[31:17] is reserved. -/
theorem State.statusWord_reserved_high : s.statusWord.extractLsb' 17 15 = 0 :=
  extractLsb'_eq_of_getLsbD fun i hi => by
    simp (disch := omega) only [State.statusWord_getLsbD, if_neg]
    simp

end

/-- The PHASE codes are those of 10_state.md R24. -/
theorem phase_code_toNat (p : Phase) : p.code.toNat = phaseNumber p := by
  cases p <;> rfl

/-- The ERRCODE codes are those of 60_exceptions.md R340. -/
theorem errcodeBits_toNat (c : Option CmdError) : (errcodeBits c).toNat = errorNumber c := by
  cases c with
  | none => rfl
  | some c => cases c <;> rfl

/-- A block fits in the port word BUFBITS reads (00_scope.md R5). -/
theorem blockBitsOf_bounds (m : Mode) : 0 < blockBitsOf m ∧ blockBitsOf m < 2 ^ 32 := by
  cases m <;> decide

/-- Settles O14: the fields are those of `statusWord`, and BUFBITS and OUTBITS fit in the word they read as. -/
theorem statusAndLengthRegistersRead : Obligations.StatusAndLengthRegistersRead := by
  intro s x
  have hx : x = s.statusWord := s.busRead_offset .status
  have hbuf : (s.busRead 0x005).toNat = s.totlen.toNat % blockBitsOf s.mode := by
    have hbound := blockBitsOf_bounds s.mode
    rw [show s.busRead 0x005 = BitVec.ofNat 32 s.bufbits from s.busRead_offset .bufbits, s.bufbits_eq,
      BitVec.toNat_ofNat, Nat.mod_eq_of_lt ((Nat.mod_lt _ hbound.1).trans hbound.2)]
  have hout : (s.busRead 0x003).toNat = s.outbits.toNat :=
    (congrArg BitVec.toNat (s.busRead_offset .outbits)).trans (BitVec.toNat_setWidth_of_le (by decide))
  refine ⟨⟨?_, ?_, ?_, ?_, ?_, ?_, ?_, ?_, ?_⟩, hbuf, hbuf ▸ Nat.mod_lt _ (blockBitsOf_bounds s.mode).1, hout⟩
  · rw [hx, s.statusWord_phase, phase_code_toNat]
  · rw [hx, s.statusWord_getLsbD]; rfl
  · rw [hx, s.statusWord_errcode, errcodeBits_toNat]
  · rw [hx, s.statusWord_mode]; exact code_mem_modeRows s.mode
  · rw [hx, s.statusWord_getLsbD]; rfl
  · rw [hx, s.statusWord_getLsbD]; rfl
  · rw [hx, s.statusWord_reserved_low]
  · rw [hx, s.statusWord_getLsbD]; rfl
  · rw [hx, s.statusWord_reserved_high]

end Sys2Proof.Machine
end

section
/-! What a command and a step can do, said once: a refusal, or the effect of an accepted command
(60_exceptions.md R341 to R343; 20_memory.md R67 to R74). -/

open Sys2Proof.Claims

namespace Sys2Proof.Machine

/-! ### What appended bytes leave unchanged (41_streaming.md R151, R152) -/

section
variable (s : State) (bs : List Byte)

@[simp] theorem State.appendBytes_phase : (s.appendBytes bs).phase = s.phase := by rw [State.appendBytes_frame]
@[simp] theorem State.appendBytes_err : (s.appendBytes bs).err = s.err := by rw [State.appendBytes_frame]
@[simp] theorem State.appendBytes_errcode : (s.appendBytes bs).errcode = s.errcode := by
  rw [State.appendBytes_frame]
@[simp] theorem State.appendBytes_custom : (s.appendBytes bs).custom = s.custom := by rw [State.appendBytes_frame]
@[simp] theorem State.appendBytes_cf : (s.appendBytes bs).cf = s.cf := by rw [State.appendBytes_frame]
@[simp] theorem State.appendBytes_outbits : (s.appendBytes bs).outbits = s.outbits := by
  rw [State.appendBytes_frame]
@[simp] theorem State.appendBytes_din : (s.appendBytes bs).din = s.din := by rw [State.appendBytes_frame]
@[simp] theorem State.appendBytes_dg : (s.appendBytes bs).dg = s.dg := by rw [State.appendBytes_frame]
@[simp] theorem State.appendBytes_a : (s.appendBytes bs).a = s.a := by rw [State.appendBytes_frame]
@[simp] theorem State.appendBytes_b : (s.appendBytes bs).b = s.b := by rw [State.appendBytes_frame]
@[simp] theorem State.appendBytes_c : (s.appendBytes bs).c = s.c := by rw [State.appendBytes_frame]
@[simp] theorem State.appendBytes_r : (s.appendBytes bs).r = s.r := by rw [State.appendBytes_frame]
@[simp] theorem State.appendBytes_rh : (s.appendBytes bs).rh = s.rh := by rw [State.appendBytes_frame]
@[simp] theorem State.appendBytes_pending : (s.appendBytes bs).pending = s.pending := by
  rw [State.appendBytes_frame]
@[simp] theorem State.appendBytes_responses : (s.appendBytes bs).responses = s.responses := by
  rw [State.appendBytes_frame]

end

/-! ### Commands -/

/-- What an accepted command makes of a state. An ALU command's values are left open: only what it keeps is
said. -/
inductive State.Effect (s : State) : Instr → State → Prop where
  | init (m : Mode) :
    s.Effect (.init m) { s.startMessage m false with h := m.ivWords, outbits := m.defaultOutbits }
  | initk (m : Mode) : s.Effect (.initk m) (s.startMessage m true)
  | clrerr : s.Effect .clrerr s.clearError
  | absorbNone : s.Effect (.absorb 0) s
  | absorb {n : BitVec 4} (hn : 0 < n.toNat ∧ n.toNat ≤ 4) (hphase : s.phase ≠ .unconf)
    (hbit : s.bitpend = false) : s.Effect (.absorb n) ((s.appendBytes (s.dinBytes n.toNat)).withPhase .accum)
  | absorbbitsNone : s.Effect (.absorbbits 0) s
  | absorbbits {n : BitVec 4} (hn : 0 < n.toNat ∧ n.toNat ≤ 7) (he : s.engine = .sha512)
    (hbit : s.bitpend = false) : s.Effect (.absorbbits n) (s.appendBits n.toNat)
  | final (hphase : s.phase ≠ .unconf) (hlow : 1 ≤ s.outbits.toNat)
    (hhigh : s.outbits.toNat ≤ stateBitsOf s.mode) :
    s.Effect .final { s with dg := s.digest, w := s.lastSched s.padBlocks, phase := .finalized }
  | compress (hphase : s.phase ≠ .unconf) : s.Effect .compress (s.runBlock s.block)
  | expand (hphase : s.phase ≠ .unconf) : s.Effect .expand { s with w := s.engine.schedArray s.block }
  | alu {i : Instr} (hi : isAlu i = true) (r rh : Word128) (cf : Bool)
    (hrh : (∀ w, i ≠ .cmul w) → rh = s.rh) (hcf : writesCf i = false → cf = s.cf) :
    s.Effect i { s with r := r, rh := rh, cf := cf }

/-- Every command has a next state in every state: a refused one too (60_exceptions.md R341, R348). -/
theorem exec_total (i : Instr) (s : State) : ∃ t, exec i s = .next t := by
  cases i with
  | absorb n => simp only [exec, execAbsorb]; split_ifs <;> exact ⟨_, rfl⟩
  | absorbbits n => simp only [exec, execAbsorbbits]; split_ifs <;> exact ⟨_, rfl⟩
  | final => simp only [exec, execFinal]; split_ifs <;> exact ⟨_, rfl⟩
  | compress => simp only [exec, execCompress]; split_ifs <;> exact ⟨_, rfl⟩
  | expand => simp only [exec, execExpand]; split_ifs <;> exact ⟨_, rfl⟩
  | init _ | initk _ | clrerr => exact ⟨_, rfl⟩
  | wadd _ | cadd _ | wsub _ | bsub _ | cmul _ | rotl _ | rotr _ => exact ⟨_, rfl⟩
  | shl _ | shr _ | bswap _ | and _ | or _ | xor _ | not _ => exact ⟨_, rfl⟩

/-- A command is refused with the code its table of checks names, or has its effect
(60_exceptions.md R341, R343). -/
theorem exec_cases {i : Instr} {s t : State} (h : exec i s = .next t) :
    (∃ c, refusalOf i s = some c ∧ t = s.recordError c) ∨ refusalOf i s = none ∧ s.Effect i t := by
  cases i with
  | absorb n =>
    obtain ⟨hn, rfl⟩ | ⟨hn, hphase, rfl⟩ | ⟨hn, hphase, hbit, rfl⟩ | ⟨rfl, hphase, hbit, rfl⟩
      | ⟨hn, hne, hphase, hbit, rfl⟩ := execAbsorb_cases h
    · exact .inl ⟨_, by simp [refusalOf, hn], rfl⟩
    · exact .inl ⟨_, by simp [refusalOf, hn, hphase], rfl⟩
    · exact .inl ⟨_, by simp [refusalOf, hn, hphase, hbit], rfl⟩
    · exact .inr ⟨by simp [refusalOf, hphase, hbit], .absorbNone⟩
    · exact .inr ⟨by simp [refusalOf, hn, hphase, hbit], .absorb ⟨BitVec.toNat_pos_of_ne_zero hne, hn⟩ hphase hbit⟩
  | absorbbits n =>
    obtain ⟨hn, rfl⟩ | ⟨hn, hphase, rfl⟩ | ⟨hn, hphase, he, rfl⟩ | ⟨hn, hphase, he, hbit, rfl⟩
      | ⟨rfl, hphase, he, hbit, rfl⟩ | ⟨hn, hne, hphase, he, hbit, rfl⟩ := execAbsorbbits_cases h
    · exact .inl ⟨_, by simp [refusalOf, hn], rfl⟩
    · exact .inl ⟨_, by simp [refusalOf, hn, hphase], rfl⟩
    · exact .inl ⟨_, by simp [refusalOf, hn, hphase, he], rfl⟩
    · exact .inl ⟨_, by simp [refusalOf, hn, hphase, he, hbit], rfl⟩
    · exact .inr ⟨by simp [refusalOf, hphase, he, hbit], .absorbbitsNone⟩
    · exact .inr ⟨by simp [refusalOf, hn, hphase, he, hbit],
        .absorbbits ⟨BitVec.toNat_pos_of_ne_zero hne, hn⟩ he hbit⟩
  | final =>
    obtain ⟨hphase, rfl⟩ | ⟨hphase, hout, rfl⟩ | ⟨hphase, hlow, hhigh, rfl⟩ := execFinal_cases h
    · exact .inl ⟨_, by simp [refusalOf, hphase], rfl⟩
    · exact .inl ⟨_, by simp only [refusalOf, firstFailure_cons, hout]; simp [hphase], rfl⟩
    · have hout : ¬(s.outbits.toNat < 1 ∨ s.engine.stateBits < s.outbits.toNat) := by omega
      refine .inr ⟨by simp only [refusalOf, firstFailure_cons, hout]; simp [hphase], .final hphase hlow ?_⟩
      rwa [← Mode.engine_stateBits]
  | compress =>
    obtain ⟨hphase, rfl⟩ | ⟨hphase, rfl⟩ := execCompress_cases h
    · exact .inl ⟨_, by simp [refusalOf, hphase], rfl⟩
    · exact .inr ⟨by simp [refusalOf, hphase], .compress hphase⟩
  | expand =>
    obtain ⟨hphase, rfl⟩ | ⟨hphase, rfl⟩ := execExpand_cases h
    · exact .inl ⟨_, by simp [refusalOf, hphase], rfl⟩
    · exact .inr ⟨by simp [refusalOf, hphase], .expand hphase⟩
  | init m => cases h; exact .inr ⟨rfl, .init m⟩
  | initk m => cases h; exact .inr ⟨rfl, .initk m⟩
  | clrerr => cases h; exact .inr ⟨rfl, .clrerr⟩
  | wadd _ | cadd _ | wsub _ | bsub _ =>
    cases h; exact .inr ⟨rfl, .alu rfl _ _ _ (fun _ => rfl) nofun⟩
  | cmul w => cases h; exact .inr ⟨rfl, .alu rfl _ _ _ (fun hw => absurd rfl (hw w)) fun _ => rfl⟩
  | rotl _ | rotr _ | shl _ | shr _ | bswap _ | and _ | or _ | xor _ | not _ =>
    cases h; exact .inr ⟨rfl, .alu rfl _ _ _ (fun _ => rfl) fun _ => rfl⟩

/-- A command whose table of checks names a code is refused with it (60_exceptions.md R341, R343). -/
theorem exec_of_refusalOf_eq_some {i : Instr} {s : State} {c : CmdError} (h : refusalOf i s = some c) :
    exec i s = recorded s c := by
  obtain ⟨t, ht⟩ := exec_total i s
  obtain ⟨d, hd, rfl⟩ | ⟨hnone, -⟩ := exec_cases ht
  · obtain rfl := Option.some.inj (h.symm.trans hd)
    exact ht
  · simp [h] at hnone

/-- A command whose table of checks names no code has its effect. -/
theorem exists_effect_of_refusalOf_eq_none {i : Instr} {s : State} (h : refusalOf i s = none) :
    ∃ t, exec i s = .next t ∧ s.Effect i t := by
  obtain ⟨t, ht⟩ := exec_total i s
  obtain ⟨c, hc, -⟩ | ⟨-, heffect⟩ := exec_cases ht
  · simp [h] at hc
  · exact ⟨t, ht, heffect⟩

/-- Settles O19: each refusal is the first check that fails in the command's table. -/
theorem stateChecksRefuseInOrder : Obligations.StateChecksRefuseInOrder := by
  intro s
  have hmode : isSha512Mode s.mode = true ↔ s.engine = .sha512 := s.mode.engine_eq_sha512.symm
  refine ⟨fun n hn => ⟨fun hphase => ?_, fun hphase hbit => ?_⟩,
    fun n hn => ⟨fun hphase => ?_, fun hphase hm => ?_, fun hphase hm hbit => ?_⟩,
    fun hphase => ?_, fun hphase hout => ?_, fun hphase => ?_, fun hphase => ?_⟩
  · exact exec_of_refusalOf_eq_some (by simp [refusalOf, hn, hphase])
  · exact exec_of_refusalOf_eq_some (by simp [refusalOf, hn, hphase, hbit])
  · exact exec_of_refusalOf_eq_some (by simp [refusalOf, hn, hphase])
  · have he : s.engine ≠ .sha512 := fun he => by simp [hmode.2 he] at hm
    exact exec_of_refusalOf_eq_some (by simp [refusalOf, hn, hphase, he])
  · exact exec_of_refusalOf_eq_some (by simp [refusalOf, hn, hphase, hmode.1 hm, hbit])
  · exact exec_of_refusalOf_eq_some (by simp [refusalOf, hphase])
  · rw [exec_final, if_neg hphase, if_pos hout]
  · exact exec_of_refusalOf_eq_some (by simp [refusalOf, hphase])
  · exact exec_of_refusalOf_eq_some (by simp [refusalOf, hphase])

/-- Settles O29: with the checks passed a count of 0 is the branch that keeps the state. -/
theorem zeroLengthAbsorbIsANoOp : Obligations.ZeroLengthAbsorbIsANoOp := by
  intro s hphase hbit
  refine ⟨?_, fun hm => ?_⟩
  · rw [exec_absorb (by decide), if_neg hphase, if_neg (by simp [hbit]), if_pos rfl]
  · rw [exec_absorbbits (by decide), if_neg hphase, if_neg (by simp [hm]), if_neg (by simp [hbit]), if_pos rfl]

/-! ### Steps -/

/-- What a step can do: nothing with nothing pending, else what its oldest pending event does. -/
inductive State.Stepped (s : State) : State → Prop where
  | idle (hpending : s.pending = []) : s.Stepped s
  | read {off : WordOffset} {rest : List PortEvent} (hpending : s.pending = .read off :: rest) :
    s.Stepped { s with pending := rest, responses := s.responses ++ [s.busRead off] }
  | reset {rest : List PortEvent} (hpending : s.pending = .reset :: rest) :
    s.Stepped { State.reset with pending := rest, responses := s.responses }
  | ignored {off : WordOffset} {v : Word32} {rest : List PortEvent} (hpending : s.pending = .write off v :: rest) :
    s.Stepped { s with pending := rest }
  | stored {off : WordOffset} {v : Word32} {rest : List PortEvent} (hpending : s.pending = .write off v :: rest)
    (reg : PortReg) : s.Stepped ({ s with pending := rest }.writeReg reg v)
  | refused {v : Word32} {rest : List PortEvent} (hpending : s.pending = .write 0x001 v :: rest) (c : CmdError) :
    s.Stepped ({ s with pending := rest }.recordError c)
  | command {rest : List PortEvent} {i : Instr} {t : State} (hpending : s.pending = .write 0x001 (encode i) :: rest)
    (heffect : { s with pending := rest }.Effect i t) : s.Stepped t

/-- A step does one of these (20_memory.md R67 to R74). -/
theorem step_cases {s t : State} (h : step s = .next t) : s.Stepped t := by
  cases hpending : s.pending with
  | nil =>
    rw [step_of_pending_nil hpending] at h
    cases h
    exact .idle hpending
  | cons e rest =>
    rw [step_of_pending_cons hpending] at h
    obtain ⟨off, rfl, rfl⟩ | ⟨rfl, rfl⟩ | ⟨off, v, rfl, -, rfl⟩ | ⟨off, v, reg, rfl, -, -, rfl⟩
      | ⟨off, v, rfl, hcmd, hissue⟩ := State.perform_cases h
    · exact .read hpending
    · exact .reset hpending
    · exact .ignored hpending
    · exact .stored hpending reg
    · obtain rfl : off = 0x001 := portReg_eq_some_iff.1 hcmd
      obtain ⟨c, -, rfl⟩ | ⟨i, hdec, hexec⟩ := State.issue_cases hissue
      · exact .refused hpending c
      · obtain ⟨c, -, rfl⟩ | ⟨-, heffect⟩ := exec_cases hexec
        · exact .refused hpending c
        · exact .command (encode_of_decode_ok hdec ▸ hpending) heffect

/-- Every event has a next state (60_exceptions.md R355). -/
theorem State.perform_total (s : State) (e : PortEvent) : ∃ t, s.perform e = .next t := by
  cases e with
  | read _ | reset => exact ⟨_, rfl⟩
  | write off v =>
    simp only [State.perform, State.busWrite]
    split
    · exact ⟨_, rfl⟩
    · unfold State.issue
      split
      · exact ⟨_, rfl⟩
      · exact exec_total _ s
    · exact ⟨_, rfl⟩

/-- Settles O9: `exec_total` for commands, and every event of the queue has a next state. -/
theorem nothingStopsTheCore : Obligations.NothingStopsTheCore := by
  refine ⟨fun s => ?_, exec_total⟩
  cases hpending : s.pending with
  | nil => exact ⟨s, step_of_pending_nil hpending⟩
  | cons e rest =>
    rw [step_of_pending_cons hpending]
    exact State.perform_total _ e

section
variable (s : State) (reg : PortReg) (v : Word32)

/-! ### What a stored word leaves unchanged (20_memory.md R70, R71) -/

@[simp] theorem State.writeReg_phase : (s.writeReg reg v).phase = s.phase := by cases reg <;> rfl
@[simp] theorem State.writeReg_err : (s.writeReg reg v).err = s.err := by cases reg <;> rfl
@[simp] theorem State.writeReg_errcode : (s.writeReg reg v).errcode = s.errcode := by cases reg <;> rfl
@[simp] theorem State.writeReg_mode : (s.writeReg reg v).mode = s.mode := by cases reg <;> rfl
@[simp] theorem State.writeReg_bitpend : (s.writeReg reg v).bitpend = s.bitpend := by cases reg <;> rfl
@[simp] theorem State.writeReg_totlen : (s.writeReg reg v).totlen = s.totlen := by cases reg <;> rfl
@[simp] theorem State.writeReg_dg : (s.writeReg reg v).dg = s.dg := by cases reg <;> rfl

end

/-- The invariants read PHASE, TOTLEN, BITPEND, the mode and the error record only (10_state.md R44). -/
theorem State.Boundary.congr {s t : State} (hs : s.Boundary) (hphase : t.phase = s.phase) (hmode : t.mode = s.mode)
    (htotlen : t.totlen = s.totlen) (hbit : t.bitpend = s.bitpend) (herr : t.err = s.err)
    (hcode : t.errcode = s.errcode) : t.Boundary := by
  simpa only [State.Boundary, State.engine, hphase, hmode, htotlen, hbit, herr, hcode] using hs

/-- A refusal keeps the invariants: with ERR set, ERRCODE is free (10_state.md R44). -/
theorem State.Boundary.recordError {s : State} (hs : s.Boundary) (c : CmdError) : (s.recordError c).Boundary := by
  obtain ⟨hready, hunconf, hempty, hbit, hbytes, -⟩ := hs
  exact ⟨hready, hunconf, hempty, hbit, hbytes, nofun⟩

/-- A message begun meets the invariants, whatever H and OUTBITS it has (40_control.md R121, R123). -/
theorem State.Boundary.of_begun {s t : State} (hs : s.Boundary) (hphase : t.phase = .empty) (htotlen : t.totlen = 0)
    (hbit : t.bitpend = false) (herr : t.err = s.err) (hcode : t.errcode = s.errcode) : t.Boundary := by
  obtain ⟨-, -, -, -, -, herror⟩ := hs
  simpa [State.Boundary, hphase, htotlen, hbit, herr, hcode] using herror

/-- An accepted command keeps the invariants: whole bytes keep TOTLEN a multiple of 8, and a partial byte, which
comes in a SHA-512 mode only, makes it none (10_state.md R44). -/
theorem State.Boundary.effect {s t : State} {i : Instr} (hs : s.Boundary) (h : s.Effect i t) : t.Boundary := by
  cases h with
  | init m => exact hs.of_begun rfl rfl rfl rfl rfl
  | initk m => exact hs.of_begun rfl rfl rfl rfl rfl
  | absorbNone | absorbbitsNone => exact hs
  | clrerr =>
    obtain ⟨hready, hunconf, hempty, hbit, hbytes, -⟩ := hs
    exact ⟨hready, hunconf, hempty, hbit, hbytes, fun _ => rfl⟩
  | @absorb n hn hphase hbit =>
    obtain ⟨-, -, -, -, hbytes, herror⟩ := hs
    have hlen := hbytes hbit
    refine ⟨nofun, nofun, nofun, ?_, fun _ => ?_, ?_⟩
    · simp [hbit]
    · simp [BitVec.toNat_add]
      omega
    · simpa using herror
  | @absorbbits n hn he hbit =>
    obtain ⟨-, -, -, -, hbytes, herror⟩ := hs
    have hlen := hbytes hbit
    refine ⟨nofun, nofun, nofun, fun _ => ⟨he, ?_⟩, nofun, herror⟩
    simp [BitVec.toNat_add]
    omega
  | final hphase hlow hhigh =>
    obtain ⟨-, -, -, hbit, hbytes, herror⟩ := hs
    exact ⟨nofun, nofun, nofun, hbit, hbytes, herror⟩
  | compress | expand | alu => exact hs.congr rfl rfl rfl rfl rfl rfl

/-- Settles O16: at reset there is no message and no error. -/
theorem resetIsAtABoundary : Obligations.ResetIsAtABoundary :=
  ⟨nofun, fun _ => ⟨rfl, rfl⟩, nofun, nofun, fun _ => rfl, fun _ => rfl⟩

/-- Settles O17: of the things a step can do, only a refusal, the start of a message and the absorb commands
touch what the invariants read. -/
theorem stepKeepsTheBoundaryInvariants : Obligations.StepKeepsTheBoundaryInvariants := by
  intro s t hs h
  cases step_cases h with
  | idle | read | ignored => exact hs
  | reset => exact resetIsAtABoundary
  | stored => exact hs.congr (by simp) (by simp) (by simp) (by simp) (by simp) (by simp)
  | refused _ c => exact State.Boundary.recordError hs c
  | command _ heffect =>
    refine State.Boundary.effect ?_ heffect
    exact hs

/-! ### Who writes the error record, DG and the other registers -/

/-- A refusal leaves a set error record as it is (60_exceptions.md R342). -/
theorem State.recordError_sticky {s : State} (herr : s.err = true) (c : CmdError) :
    (s.recordError c).err = true ∧ (s.recordError c).errcode = s.errcode := by
  simp [herr]

/-- An accepted command keeps the error record, unless it is CLRERR (10_state.md R25). -/
theorem State.Effect.error_cases {s t : State} {i : Instr} (h : s.Effect i t) :
    s.sameError t ∨ i = .clrerr ∧ t.err = false ∧ t.errcode = none := by
  cases h with
  | clrerr => exact .inr ⟨rfl, rfl, rfl⟩
  | absorb => exact .inl ⟨by simp, by simp⟩
  | init | initk | absorbNone | absorbbitsNone | absorbbits | final | compress | expand | alu =>
    exact .inl ⟨rfl, rfl⟩

/-- Settles O20: of the things a step can do, only CLRERR and a reset clear the record, and a refusal keeps its
first code. -/
theorem errorRecordIsSticky : Obligations.ErrorRecordIsSticky := by
  intro s t h herr
  cases step_cases h with
  | idle | read | ignored => exact .inl ⟨herr, rfl⟩
  | reset hpending => exact .inr (.inr ⟨_, hpending⟩)
  | stored => exact .inl (by simpa using herr)
  | refused _ c => exact .inl (State.recordError_sticky herr c)
  | command hpending heffect =>
    obtain ⟨hsame, hcode⟩ | ⟨rfl, hclear⟩ := heffect.error_cases
    · exact .inl ⟨hsame.trans herr, hcode⟩
    · exact .inr (.inl ⟨_, hpending, hclear⟩)

/-- An accepted command keeps DG, unless it is FINAL (10_state.md R36). -/
theorem State.Effect.digest_cases {s t : State} {i : Instr} (h : s.Effect i t) :
    t.dg = s.dg ∨ i = .final ∧ s.phase ≠ .unconf ∧ 1 ≤ s.outbits.toNat
      ∧ s.outbits.toNat ≤ stateBitsOf s.mode ∧ t.phase = .finalized := by
  cases h with
  | final hphase hlow hhigh => exact .inr ⟨rfl, hphase, hlow, hhigh, rfl⟩
  | absorb => exact .inl (by simp)
  | init | initk | clrerr | absorbNone | absorbbitsNone | absorbbits | compress | expand | alu => exact .inl rfl

/-- Settles O21: of the things a step can do, only an accepted FINAL and a reset write DG. -/
theorem onlyFinalWritesTheDigest : Obligations.OnlyFinalWritesTheDigest := by
  intro s t h hdg
  cases step_cases h with
  | idle | read | ignored | refused => exact absurd rfl hdg
  | reset hpending => exact .inr ⟨_, hpending⟩
  | stored hpending reg => exact absurd (State.writeReg_dg _ reg _) hdg
  | command hpending heffect =>
    obtain hsame | ⟨rfl, hfinal⟩ := heffect.digest_cases
    · exact absurd hsame hdg
    · exact .inl ⟨_, hpending, hfinal⟩

/-- Settles O22: a refusal writes the error record only; among the effects only INIT's writes OUTBITS, and only
the ALU's write R, RH and CF. -/
theorem registersHaveTheirWriters : Obligations.RegistersHaveTheirWriters := by
  intro i s t h
  obtain ⟨c, -, rfl⟩ | ⟨-, heffect⟩ := exec_cases h
  · simp
  cases heffect with
  | init m => simp
  | absorb => simp
  | alu hi r rh cf hrh hcf => exact ⟨rfl, rfl, rfl, rfl, rfl, rfl, hcf, hrh, fun _ => rfl, by simp [hi]⟩
  | initk | clrerr | absorbNone | absorbbitsNone | absorbbits | final | compress | expand =>
    exact ⟨rfl, rfl, rfl, rfl, rfl, rfl, fun _ => rfl, fun _ => rfl, fun _ => rfl, fun _ => rfl⟩

/-- A read sees R, RH and CF only at R, RH and STATUS (10_state.md R23; 45_word_alu.md R290). -/
theorem State.readReg_with_alu (s : State) (r rh : Word128) (cf : Bool) {reg : PortReg} (hr : ∀ k, reg ≠ .r k)
    (hrh : ∀ k, reg ≠ .rh k) (hstatus : reg ≠ .status) :
    { s with r := r, rh := rh, cf := cf }.readReg reg = s.readReg reg := by
  cases reg with
  | r k => exact absurd rfl (hr k)
  | rh k => exact absurd rfl (hrh k)
  | status => exact absurd rfl hstatus
  | id | cmd | outbits | din | bufbits | totlen _ | a _ | b _ | c _ | h _ _ | blk _ | dg _ | w _ _ => rfl

/-- CF is bit 16 of STATUS and no other (10_state.md R23). -/
theorem State.statusWord_with_alu (s : State) (r rh : Word128) (cf : Bool) {b : Nat} (hb : b ≠ 16) :
    { s with r := r, rh := rh, cf := cf }.statusWord.getLsbD b = s.statusWord.getLsbD b := by
  simp only [State.statusWord_getLsbD, if_neg hb]

/-- No state check refuses an ALU command (45_word_alu.md R290). -/
theorem refusalOf_of_isAlu {i : Instr} (hi : isAlu i = true) (s : State) : refusalOf i s = none := by
  cases i with
  | wadd _ | cadd _ | wsub _ | bsub _ | cmul _ | rotl _ | rotr _ => rfl
  | shl _ | shr _ | bswap _ | and _ | or _ | xor _ | not _ => rfl
  | init _ | initk _ | clrerr | absorb _ | absorbbits _ | final | compress | expand => cases hi

/-- Settles O24: no check refuses an ALU command, and its effect is on R, RH and CF. -/
theorem aluCommandsLeaveTheRestOfTheWindow : Obligations.AluCommandsLeaveTheRestOfTheWindow := by
  intro i s hi
  have haccepted := refusalOf_of_isAlu hi s
  obtain ⟨t, hexec, heffect⟩ := exists_effect_of_refusalOf_eq_none haccepted
  cases heffect with
  | init | initk | clrerr | absorbNone | absorb | absorbbitsNone | absorbbits | final | compress | expand =>
    cases hi
  | alu _ r rh cf _ _ =>
    refine ⟨_, hexec, ⟨rfl, rfl, rfl, rfl, rfl, rfl, rfl, rfl, rfl, rfl⟩, ⟨rfl, rfl, rfl⟩, ⟨rfl, rfl⟩,
      fun off hr hrh hstatus => ?_, fun b hb => s.statusWord_with_alu r rh cf hb⟩
    cases hreg : portReg off with
    | none => rw [State.busRead_reserved _ _ hreg, State.busRead_reserved _ _ hreg]
    | some reg =>
      rw [State.busRead, State.busRead, hreg]
      exact s.readReg_with_alu r rh cf (fun k h => hr k (h ▸ hreg)) (fun k h => hrh k (h ▸ hreg))
        fun h => hstatus (h ▸ hreg)

end Sys2Proof.Machine
end

section
/-! The padding reads the buffered bytes only, and FINAL is repeatable (41_streaming.md R155 to R157, R164). -/

open Sys2Proof.Claims

namespace Sys2Proof

/-- Settles O34: the padding has one block where the length field still fits, which is then the least, and else
two, where one would not hold them. -/
theorem paddingIsTheLeastThatFits : Obligations.PaddingIsTheLeastThatFits := by
  intro e blk L r
  have hlen := e.lenBytes_lt_blockBytes
  have hbits : e.blockBits = 8 * e.blockBytes ∧ e.lenBits = 8 * e.lenBytes := ⟨rfl, rfl⟩
  have hr : r < e.blockBits := Nat.mod_lt _ (by omega)
  have hblocks : (e.pad blk L).length = if r + 1 + e.lenBits ≤ e.blockBits then 1 else 2 := e.pad_length blk L
  rw [hblocks]
  split_ifs with hfit
  · refine ⟨by omega, fun k hk => Nat.pos_of_ne_zero fun h0 => ?_⟩
    rw [h0] at hk
    omega
  · refine ⟨by omega, fun k hk => ?_⟩
    by_contra! hlt
    have : k * e.blockBits ≤ 1 * e.blockBits := Nat.mul_le_mul_right _ (by omega)
    omega

/-- The head of the padding reads the bytes that hold buffered bits, and no others (R156). -/
theorem padHead_congr {blk blk' : List Byte} {r : Nat} (h : ∀ j, j < (r + 7) / 8 → blk'.getD j 0 = blk.getD j 0)
    (n : Nat) : padHead n blk' r = padHead n blk r := by
  refine List.map_congr_left fun j _ => ?_
  by_cases hj : j < (r + 7) / 8
  · simp only [h j hj]
  · simp only [if_neg hj]

/-- The padding reads the bytes that hold buffered bits, and no others (R156). -/
theorem Engine.pad_congr {e : Engine} {blk blk' : List Byte} {L : Nat}
    (h : ∀ j, j < (L % e.blockBits + 7) / 8 → blk'.getD j 0 = blk.getD j 0) : e.pad blk' L = e.pad blk L := by
  simp only [Engine.pad, padHead_congr h]

/-- A block size divides what TOTLEN counts up to (10_state.md R32; 00_scope.md R5). -/
theorem Engine.blockBits_dvd (e : Engine) : e.blockBits ∣ 2 ^ 128 := by
  cases e <;> decide

/-- A number's low bytes are those of its remainder (00_scope.md R8). -/
theorem serLe_mod {n m : Nat} (h : n ≤ m) (v : Nat) : serLe n (v % 256 ^ m) = serLe n v := by
  induction n generalizing m v with
  | zero => rfl
  | succ n ih =>
    obtain ⟨m, rfl⟩ := Nat.exists_eq_add_of_le' (show 1 ≤ m by omega)
    have hbyte : BitVec.ofNat 8 (v % 256 ^ (m + 1)) = BitVec.ofNat 8 v := by
      apply BitVec.eq_of_toNat_eq
      rw [BitVec.toNat_ofNat, BitVec.toNat_ofNat, 
        Nat.mod_mod_of_dvd _ (show 2 ^ 8 ∣ 256 ^ (m + 1) from Dvd.intro_left (256 ^ m) rfl)]
    rw [serLe, serLe, hbyte, pow_succ', Nat.mod_mul_right_div_self, ih (by omega)]

/-- The length field counts modulo what it holds, which is no more than TOTLEN holds (R158). -/
theorem Engine.lenField_mod (e : Engine) (L : Nat) : e.lenField (L % 2 ^ 128) = e.lenField L := by
  have hlen : e.lenBytes ≤ 16 := by cases e <;> decide
  rw [Engine.lenField, Engine.lenField, Engine.serialize, Engine.serialize, serBe, serBe,
    show 2 ^ 128 = 256 ^ 16 by norm_num, serLe_mod hlen]

/-- TOTLEN's wrap does not show in the padding (10_state.md R32). -/
theorem Engine.pad_mod (e : Engine) (blk : List Byte) (L : Nat) : e.pad blk (L % 2 ^ 128) = e.pad blk L := by
  simp only [Engine.pad, e.lenField_mod, Nat.mod_mod_of_dvd _ e.blockBits_dvd]

namespace Machine

/-- What an accepted FINAL leaves (41_streaming.md R154). -/
def State.finalized (s : State) : State :=
  { s with dg := s.digest, w := s.lastSched s.padBlocks, phase := .finalized }

/-- FINAL with its checks passed. -/
theorem exec_final_of_accepted {s : State} (hphase : s.phase ≠ .unconf) (hlow : 1 ≤ s.outbits.toNat)
    (hhigh : s.outbits.toNat ≤ stateBitsOf s.mode) : exec .final s = .next s.finalized := by
  have hzero : s.outbits ≠ 0 := fun h => by simp [h] at hlow
  rw [exec_final, if_neg hphase, if_neg (not_or.2 ⟨hzero, by omega⟩)]
  rfl

/-- A second FINAL finds the same message, and writes what the first wrote (41_streaming.md R164). -/
theorem State.finalized_finalized (s : State) : s.finalized.finalized = s.finalized := by
  have hlast := List.getLast?_eq_some_getLast s.padBlocks_ne_nil
  have hw : s.finalized.lastSched s.padBlocks = s.lastSched s.padBlocks := by
    rw [State.lastSched_eq hlast, State.lastSched_eq hlast]
    rfl
  calc s.finalized.finalized = { s.finalized with w := s.finalized.lastSched s.padBlocks } := rfl
    _ = s.finalized := by rw [hw]; rfl

/-- Settles O37: FINAL leaves PHASE, OUTBITS and MODE acceptable, so the second one is accepted too. -/
theorem finalIsRepeatable : Obligations.FinalIsRepeatable := by
  intro s t hphase hlow hhigh h
  rw [exec_final_of_accepted hphase hlow hhigh] at h
  cases h
  rw [exec_final_of_accepted (s := s.finalized) nofun hlow hhigh, State.finalized_finalized]

/-- Settles O38: the checks do not read BLK, and the padding reads its buffered bytes only, `Engine.pad_congr`. -/
theorem staleBufferBytesReachNoDigest : Obligations.StaleBufferBytesReachNoDigest := by
  intro s blk' hblk t u ht hu
  have hpad : { s with blk := blk' }.padBlocks = s.padBlocks := Engine.pad_congr hblk
  have hdigest : { s with blk := blk' }.digest = s.digest := by
    rw [State.digest, hpad]
    rfl
  rw [exec_final] at ht hu
  rw [hpad, hdigest] at hu
  change (if s.phase = _ then _ else if s.outbits = 0 ∨ _ then _ else _) = _ at hu
  split_ifs at ht hu
  all_goals cases ht; cases hu; rfl

end Machine

end Sys2Proof
end

section
/-! The whole-message function: absorbed bytes run whole blocks and leave the rest in BLK
(41_streaming.md R152, R165, R168). -/

open Sys2Proof.Claims

namespace Sys2Proof.Machine

/-- Bytes absorbed at a block boundary run every whole block, and BLK begins with the bytes left over
(41_streaming.md R152). -/
theorem State.appendBytes_wholeBlocks {s : State} (hempty : s.bufbits = 0) (M : List Byte) :
    (s.appendBytes M).h = s.engine.chainBlocks s.h (s.engine.wholeBlocks (M.length / s.engine.blockBytes) M)
      ∧ ∀ j, j < M.length % s.engine.blockBytes →
        blkByte (s.appendBytes M) j = (M.drop (M.length / s.engine.blockBytes * s.engine.blockBytes)).getD j 0 := by
  have hbounds := s.engine.blockBytes_bounds
  have haligned : s.bufbits % 8 = 0 := by rw [hempty]
  generalize hk : M.length / s.engine.blockBytes = k
  induction k generalizing s M with
  | zero =>
    have hlt : M.length < s.engine.blockBytes := (Nat.div_eq_zero_iff_lt (by omega)).1 hk
    rw [State.appendBytes_of_lt haligned (by rw [hempty]; omega)]
    refine ⟨rfl, fun j hj => ?_⟩
    rw [Nat.mod_eq_of_lt hlt] at hj
    rw [blkByte_pushBytes _ _ (by omega), hempty, if_pos (by omega)]
    simp
  | succ k ih =>
    have hle : s.engine.blockBytes ≤ M.length := by
      by_contra! hlt
      simp [Nat.div_eq_of_lt hlt] at hk
    have hsplit : M.take s.engine.blockBytes ++ M.drop s.engine.blockBytes = M := List.take_append_drop _ _
    generalize hP : M.take s.engine.blockBytes = P at hsplit
    generalize hR : M.drop s.engine.blockBytes = R at hsplit
    have hfull : s.bufbits / 8 + P.length = s.engine.blockBytes := by
      rw [hempty, ← hP, List.length_take]
      omega
    have hlen : M.length = R.length + s.engine.blockBytes := by
      rw [← hR, List.length_drop]
      omega
    have hfirst : s.appendBytes P = (s.pushBytes P).runBlock P := by
      simpa [hempty] using State.appendBytes_of_full haligned hfull
    have hnext : ((s.pushBytes P).runBlock P).bufbits = 0 := State.bufbits_pushBytes_of_full haligned hfull
    obtain ⟨hh, hblk⟩ := ih (s := (s.pushBytes P).runBlock P) hnext R hbounds (by rw [hnext]) (by
      rw [hlen, Nat.add_div_right _ (by omega)] at hk
      exact Nat.succ_injective hk)
    have hM : s.appendBytes M = ((s.pushBytes P).runBlock P).appendBytes R := by
      rw [← hsplit, State.appendBytes_append, hfirst]
    rw [hM]
    refine ⟨?_, fun j hj => ?_⟩
    · rw [hh, Engine.wholeBlocks, Engine.wholeBlocks, chunks, hP, hR]
      rfl
    · rw [hblk j (by rwa [hlen, Nat.add_mod_right] at hj), ← hR, List.drop_drop, Nat.succ_mul, Nat.add_comm]
      rfl

/-- The digest of a message absorbed from its start is the whole-message function of it
(41_streaming.md R168). -/
theorem State.digest_appendBytes {s : State} (hstart : s.totlen = 0) (M : List Byte) :
    (s.appendBytes M).digest = truncDigest (s.engine.hash s.h M (8 * M.length)) s.outbits.toNat := by
  have hempty : s.bufbits = 0 := by simp [State.bufbits, hstart]
  obtain ⟨hh, hblk⟩ := State.appendBytes_wholeBlocks hempty M
  have hdiv : 8 * M.length / s.engine.blockBits = M.length / s.engine.blockBytes :=
    Nat.mul_div_mul_left _ _ (by decide)
  have hmod : 8 * M.length % s.engine.blockBits = 8 * (M.length % s.engine.blockBytes) :=
    Nat.mul_mod_mul_left _ _ _
  have htotlen : (s.appendBytes M).totlen.toNat = 8 * M.length % 2 ^ 128 := by
    rw [State.appendBytes_totlen, hstart]
    simp
  have hpad : (s.appendBytes M).padBlocks =
      s.engine.pad (M.drop (M.length / s.engine.blockBytes * s.engine.blockBytes)) (8 * M.length) := by
    rw [State.padBlocks, htotlen, Engine.pad_mod, State.appendBytes_engine]
    refine Engine.pad_congr fun j hj => hblk j ?_
    rw [hmod] at hj
    omega
  rw [State.digest, hpad, hh, State.appendBytes_engine, State.appendBytes_outbits, Engine.hash, hdiv]

/-- Two states with the same message absorbed so far: all that ABSORB and FINAL read of it. -/
structure State.SameMessage (s t : State) : Prop where
  mode : t.mode = s.mode
  totlen : t.totlen = s.totlen
  h : t.h = s.h
  blk : t.blk = s.blk

section
variable {s t : State} (same : s.SameMessage t)
include same

theorem State.SameMessage.engine : t.engine = s.engine := congrArg Mode.engine same.mode

theorem State.SameMessage.bufbits : t.bufbits = s.bufbits := by
  rw [State.bufbits, State.bufbits, same.engine, same.totlen]

theorem State.SameMessage.block : t.block = s.block := by
  rw [State.block, State.block, same.engine, same.blk]

/-- A byte placed in the same message. -/
theorem State.SameMessage.pushByte (b : Byte) : (s.pushByte b).SameMessage (t.pushByte b) where
  mode := same.mode
  totlen := by rw [State.pushByte_totlen, State.pushByte_totlen, same.totlen]
  h := same.h
  blk := by rw [State.pushByte_blk, State.pushByte_blk, same.blk, same.bufbits]

/-- A block run in the same message. -/
theorem State.SameMessage.runBlock (P : List Byte) : (s.runBlock P).SameMessage (t.runBlock P) where
  mode := same.mode
  totlen := same.totlen
  h := by rw [State.runBlock_h, State.runBlock_h, same.engine, same.h]
  blk := same.blk

/-- A byte absorbed into the same message. -/
theorem State.SameMessage.appendByte (b : Byte) : (s.appendByte b).SameMessage (t.appendByte b) := by
  have hpush := same.pushByte b
  rw [State.appendByte, State.appendByte, State.compressIfFull, State.compressIfFull, hpush.bufbits, hpush.block]
  split_ifs
  · exact hpush.runBlock _
  · exact hpush

/-- Bytes absorbed into the same message. -/
theorem State.SameMessage.appendBytes (bs : List Byte) : (s.appendBytes bs).SameMessage (t.appendBytes bs) := by
  induction bs generalizing s t with
  | nil => exact same
  | cons b bs ih => exact ih (same.appendByte b)

/-- The same message has the same digest at the same output length. -/
theorem State.SameMessage.digest (hout : t.outbits = s.outbits) : t.digest = s.digest := by
  rw [State.digest, State.digest, State.padBlocks, State.padBlocks, same.engine, same.totlen, same.h, same.blk, hout]

end

/-! ### FEED (30_encoding.md R103) -/

/-- A command statement of a well-formed command runs it (30_encoding.md R102). -/
theorem State.perform_cmd {i : Instr} (hwf : i.wellFormed = true) (s : State) : s.perform (cmd i) = exec i s := by
  rw [cmd, State.perform_wr_cmd, State.issue, decodeOfEncodeIsTheCommand i hwf]

/-- A register write statement stores its word (30_encoding.md R102). -/
theorem State.perform_wr {reg : PortReg} (hcmd : reg ≠ .cmd) (s : State) (v : Word32) :
    s.perform (wr reg v) = .next (s.writeReg reg v) :=
  s.busWrite_offset reg v hcmd

/-- Lane `k` of a little-endian word is byte `k` (20_memory.md R63, R78). -/
theorem laneByte_ofNat_leVal (g : List Byte) {k : Nat} (hk : k < 4) :
    laneByte (BitVec.ofNat 32 (leVal g)) k = g.getD k 0 := by
  refine BitVec.eq_of_getLsbD_eq fun i hi => ?_
  rw [laneByte, BitVec.getLsbD_extractLsb', BitVec.getLsbD_ofNat, testBit_leVal, Nat.mul_add_div (by decide),
    Nat.div_eq_of_lt hi, Nat.mul_add_mod, Nat.mod_eq_of_lt hi]
  simp [hi, show 8 * k + i < 32 by omega]

/-- The bytes ABSORB takes are those of the group FEED wrote to DIN. -/
theorem dinBytes_of_group {s : State} {g : List Byte} (hg : g.length ≤ 4) (hdin : s.din = BitVec.ofNat 32 (leVal g)) :
    s.dinBytes g.length = g := by
  refine List.ext_getElem (by simp) fun j hj _ => ?_
  have hj : j < g.length := by simpa using hj
  simp [State.dinBytes, hdin, laneByte_ofNat_leVal g (show j < 4 by omega), hj]

/-- What FEED leaves: the bytes absorbed, its last group in DIN, PHASE = ACCUM if there was a byte. -/
def State.fed (s : State) (bytes : List Byte) (d : Word32) : State :=
  { s.appendBytes bytes with din := d, phase := if bytes = [] then s.phase else .accum }

@[simp] theorem State.fed_outbits (s : State) (bytes : List Byte) (d : Word32) :
    (s.fed bytes d).outbits = s.outbits := s.appendBytes_outbits bytes

@[simp] theorem State.fed_mode (s : State) (bytes : List Byte) (d : Word32) : (s.fed bytes d).mode = s.mode :=
  s.appendBytes_mode bytes

@[simp] theorem State.fed_bitpend (s : State) (bytes : List Byte) (d : Word32) :
    (s.fed bytes d).bitpend = s.bitpend := s.appendBytes_bitpend bytes

/-- FEED does not end the message. -/
theorem State.fed_phase_ne_unconf {s : State} (hphase : s.phase ≠ .unconf) (bytes : List Byte) (d : Word32) :
    (s.fed bytes d).phase ≠ .unconf := by
  simp only [State.fed]
  split_ifs
  · exact hphase
  · nofun

/-- DIN and PHASE do not matter to the bytes absorbed. -/
theorem State.appendBytes_with_din_phase (s : State) (d : Word32) (p : Phase) (bs : List Byte) :
    { s with din := d, phase := p }.appendBytes bs = { s.appendBytes bs with din := d, phase := p } := by
  induction bs generalizing s with
  | nil => rfl
  | cons b bs ih =>
    have hb : { s with din := d, phase := p }.appendByte b = { s.appendByte b with din := d, phase := p } := by
      rw [State.appendByte, State.appendByte, State.compressIfFull, State.compressIfFull]
      change (if (s.pushByte b).bufbits = 0 then _ else _) = _
      split_ifs <;> rfl
    rw [State.appendBytes_cons, State.appendBytes_cons, hb, ih]

/-- FEED after FEED leaves what FEED of the concatenation leaves (41_streaming.md R165). -/
theorem State.fed_fed (s : State) (xs ys : List Byte) (d d' : Word32) :
    (s.fed xs d).fed ys d' = s.fed (xs ++ ys) d' := by
  have hphase : (if ys = [] then (s.fed xs d).phase else .accum)
      = if xs ++ ys = [] then s.phase else .accum := by
    cases xs <;> cases ys <;> rfl
  rw [State.fed, hphase, State.fed, State.appendBytes_with_din_phase, ← State.appendBytes_append]
  rfl

/-- ABSORB with its checks passed and bytes to take (41_streaming.md R151). -/
theorem exec_absorb_of_accepted {n : BitVec 4} (hn : n.toNat ≤ 4) (hzero : n ≠ 0) {s : State}
    (hphase : s.phase ≠ .unconf) (hbit : s.bitpend = false) :
    exec (.absorb n) s = .next ((s.appendBytes (s.dinBytes n.toNat)).withPhase .accum) := by
  rw [exec_absorb hn, if_neg hphase, if_neg (by simp [hbit]), if_neg hzero]

/-- One group of FEED. -/
theorem runEvents_feedGroup {g : List Byte} (hne : g ≠ []) (hg : g.length ≤ 4) {s : State}
    (hphase : s.phase ≠ .unconf) (hbit : s.bitpend = false) :
    runEvents (feedGroup g) s = .next (s.fed g (BitVec.ofNat 32 (leVal g))) := by
  generalize hd : BitVec.ofNat 32 (leVal g) = d
  have hcount : (BitVec.ofNat 4 g.length).toNat = g.length := by
    rw [BitVec.toNat_ofNat, Nat.mod_eq_of_lt (by omega)]
  have hzero : BitVec.ofNat 4 g.length ≠ 0 := fun h => by
    rw [h] at hcount
    exact hne (List.length_eq_zero_iff.1 hcount.symm)
  have hwf : (Instr.absorb (BitVec.ofNat 4 g.length)).wellFormed = true := decide_eq_true (by omega)
  have hfed : ({ s with din := d }.appendBytes g).withPhase .accum = s.fed g d := by
    rw [s.appendBytes_with_din_phase d s.phase g, State.fed, if_neg hne]
    rfl
  have hexec : exec (.absorb (BitVec.ofNat 4 g.length)) { s with din := d } = .next (s.fed g d) := by
    rw [exec_absorb_of_accepted (by omega) hzero (by exact hphase) (by exact hbit), hcount,
      dinBytes_of_group hg hd.symm, hfed]
  rw [feedGroup, hd, runEvents_cons, State.perform_wr (by decide), andThen_next, runEvents_cons,
    State.perform_cmd hwf]
  exact congrArg (andThen · (runEvents [])) hexec

/-- FEED of any bytes completes (30_encoding.md R103). -/
theorem runEvents_feed (bytes : List Byte) {s : State} (hphase : s.phase ≠ .unconf) (hbit : s.bitpend = false) :
    ∃ d, runEvents (feed bytes) s = .next (s.fed bytes d) := by
  induction bytes using feed.induct generalizing s with
  | case1 => exact ⟨s.din, rfl⟩
  | case2 | case3 | case4 => exact ⟨_, runEvents_feedGroup (by simp) (by simp) hphase hbit⟩
  | case5 b0 b1 b2 b3 rest ih =>
    generalize hg : [b0, b1, b2, b3] = g
    have hgroup := runEvents_feedGroup (g := g) (by simp [← hg]) (by simp [← hg]) hphase hbit
    generalize BitVec.ofNat 32 (leVal g) = d at hgroup
    obtain ⟨d', hrest⟩ := ih (State.fed_phase_ne_unconf hphase g d) ((s.fed_bitpend g d).trans hbit)
    refine ⟨d', ?_⟩
    rw [feed_four, hg, runEvents_append, hgroup, andThen_next, hrest, State.fed_fed, ← hg]
    rfl

/-- Settles O39: both feeds absorb the same bytes, `State.fed_fed`, and DIN is all they leave apart. -/
theorem absorbIsSplitIndependent : Obligations.AbsorbIsSplitIndependent := by
  intro s xs ys hphase hbit
  obtain ⟨d, hxs⟩ := runEvents_feed xs hphase hbit
  obtain ⟨d', hys⟩ := runEvents_feed ys (s := s.fed xs d) (State.fed_phase_ne_unconf hphase xs d)
    ((s.fed_bitpend xs d).trans hbit)
  obtain ⟨d'', hboth⟩ := runEvents_feed (xs ++ ys) hphase hbit
  refine ⟨s.fed (xs ++ ys) d', s.fed (xs ++ ys) d'', ?_, hboth, rfl⟩
  rw [runEvents_append, hxs, andThen_next, hys, State.fed_fed]

/-! ### HASH (30_encoding.md R103; 41_streaming.md R168) -/

/-- What INIT leaves (40_control.md R121). -/
def State.started (s : State) (m : Mode) : State :=
  { s.startMessage m false with h := m.ivWords, outbits := m.defaultOutbits }

/-- A default output length is legal (30_encoding.md R97). -/
theorem outbitsOf_bounds (m : Mode) : 1 ≤ outbitsOf m ∧ outbitsOf m ≤ stateBitsOf m := by
  cases m <;> decide

/-- FEED and FINAL of a message whose OUTBITS are its mode's default complete. -/
theorem runEvents_feed_final {s : State} (hphase : s.phase ≠ .unconf) (hbit : s.bitpend = false)
    (hout : s.outbits = s.mode.defaultOutbits) (bytes : List Byte) :
    ∃ d, runEvents (feed bytes ++ [cmd .final]) s = .next (s.fed bytes d).finalized := by
  obtain ⟨d, hfeed⟩ := runEvents_feed bytes hphase hbit
  have hlegal := outbitsOf_bounds s.mode
  rw [← Mode.defaultOutbits_toNat, ← hout] at hlegal
  have hfinal : exec .final (s.fed bytes d) = .next (s.fed bytes d).finalized := by
    refine exec_final_of_accepted (State.fed_phase_ne_unconf hphase bytes d) ?_ ?_
    · rw [State.fed_outbits]
      exact hlegal.1
    · rw [State.fed_outbits, State.fed_mode]
      exact hlegal.2
  refine ⟨d, ?_⟩
  rw [runEvents_append, hfeed, andThen_next, runEvents_cons, State.perform_cmd rfl, hfinal]
  rfl

/-- HASH completes from every state. -/
theorem runEvents_hashStatements (m : Mode) (M : List Byte) (s : State) :
    ∃ d, runEvents (hashStatements m M) s = .next ((s.started m).fed M d).finalized := by
  obtain ⟨d, h⟩ := runEvents_feed_final (s := s.started m) nofun rfl rfl M
  refine ⟨d, ?_⟩
  rw [hashStatements, List.cons_append, runEvents_cons, State.perform_cmd rfl]
  exact h

/-- The digest of the message fed after INIT. -/
theorem State.digest_started (s : State) (m : Mode) (M : List Byte) :
    ((s.started m).appendBytes M).digest =
      truncDigest (m.engine.hash m.ivWords M (8 * M.length)) (outbitsOf m) := by
  rw [State.digest_appendBytes rfl, ← Mode.defaultOutbits_toNat]
  rfl

/-- Settles O40: HASH completes, `runEvents_hashStatements`, and its digest is that of the bytes absorbed from
INIT's state, `State.digest_started`. -/
theorem hashIsTheWholeMessageFunction : Obligations.HashIsTheWholeMessageFunction := by
  intro m M s
  obtain ⟨d, h⟩ := runEvents_hashStatements m M s
  refine ⟨_, h, s.digest_started m M, rfl, ?_, ?_⟩
  · exact (s.started m).appendBytes_err M
  · exact (s.started m).appendBytes_errcode M

/-- Settles O41: FINAL keeps the message, so the second FEED goes on with it, and its digest is that of both byte
strings absorbed from INIT's state. -/
theorem absorbAfterFinalContinues : Obligations.AbsorbAfterFinalContinues := by
  intro m M1 M2 s
  obtain ⟨d1, h1⟩ := runEvents_hashStatements m M1 s
  generalize ht : ((s.started m).fed M1 d1).finalized = t at h1
  have same : ((s.started m).appendBytes M1).SameMessage t := by rw [← ht]; exact ⟨rfl, rfl, rfl, rfl⟩
  have hout : t.outbits = m.defaultOutbits := ht ▸ (s.started m).fed_outbits M1 d1
  have hmode : t.mode = m := ht ▸ (s.started m).fed_mode M1 d1
  obtain ⟨d2, h2⟩ := runEvents_feed_final (s := t) (by rw [← ht]; nofun)
    (ht ▸ (s.started m).fed_bitpend M1 d1) (by rw [hout, hmode]) M2
  refine ⟨(t.fed M2 d2).finalized, ?_, ?_⟩
  · rw [List.append_assoc, runEvents_append, h1, andThen_next, h2]
  · have hdigest := (same.appendBytes M2).digest (by simp [hout, State.started])
    rw [← State.appendBytes_append, State.digest_started] at hdigest
    exact hdigest

end Sys2Proof.Machine
end

section
/-! What the engines read, and how many blocks a command runs (42_block_engine.md R196; 70_reset_and_hazards.md
R379). -/

open Sys2Proof.Claims

namespace Sys2Proof

/-- Two chaining states whose first `k` words agree in their low halves (42_block_engine.md R196). -/
def AgreeLow (k : Nat) (h g : Vector Word64 8) : Prop := ∀ i : Fin 8, i.val < k → lowWord h i = lowWord g i

section
variable {h g : Vector Word64 8}

theorem mdState_congr (hagree : AgreeLow 4 h g) : mdState h = mdState g := by
  rw [mdState, mdState, hagree 0 (by decide), hagree 1 (by decide), hagree 2 (by decide), hagree 3 (by decide)]

theorem sha1State_congr (hagree : AgreeLow 5 h g) : sha1State h = sha1State g := by
  rw [sha1State, sha1State, hagree 0 (by decide), hagree 1 (by decide), hagree 2 (by decide), hagree 3 (by decide),
    hagree 4 (by decide)]

theorem sha256State_congr (hagree : AgreeLow 8 h g) : sha256State h = sha256State g := by
  rw [sha256State, sha256State, hagree 0 (by decide), hagree 1 (by decide), hagree 2 (by decide),
    hagree 3 (by decide), hagree 4 (by decide), hagree 5 (by decide), hagree 6 (by decide), hagree 7 (by decide)]

/-- A 32-bit engine reads the low halves of its state words (42_block_engine.md R196). -/
theorem Engine.compressWords_congr {e : Engine} (he : e ≠ .sha512) (hagree : AgreeLow e.stateWords h g)
    (P : List Byte) : e.compressWords h P = e.compressWords g P := by
  cases e with
  | md4 | md5 => simp only [Engine.compressWords, mdState_congr hagree]
  | sha0 | sha1 => simp only [Engine.compressWords, sha1State_congr hagree]
  | sha256 => simp only [Engine.compressWords, sha256State_congr hagree]
  | sha512 => exact absurd rfl he

end

/-- Settles O43: below K the new chaining words are those of the compression, which reads the low halves only. -/
theorem engineReadsOnlyItsStateWords : Obligations.EngineReadsOnlyItsStateWords := by
  intro e h g P he hagree i hi
  rw [Fin.getElem_fin, Fin.getElem_fin, e.chain_getElem h P i.val i.isLt, e.chain_getElem g P i.val i.isLt,
    if_pos hi, if_pos hi, Engine.compressWords_congr he hagree]

namespace Machine

/-- The 32 bits of at most four bytes are less than a block, so at most one of them completes one
(41_streaming.md R152). -/
theorem State.blocksCompleted_le_one (s : State) {n : Nat} (hn : n ≤ 4) : s.blocksCompleted n ≤ 1 := by
  have hbits : s.engine.blockBits = 512 ∨ s.engine.blockBits = 1024 := by cases s.engine <;> decide
  rw [State.blocksCompleted, List.countP_eq_length_filter,
    ← List.toFinset_card_of_nodup (List.nodup_range.filter _)]
  refine Finset.card_le_one.2 fun j hj k hk => ?_
  simp only [List.mem_toFinset, List.mem_filter, List.mem_range, beq_iff_eq, BitVec.toNat_add,
    BitVec.toNat_ofNat] at hj hk
  obtain h | h := hbits <;> rw [h] at hj hk <;> omega

/-- The state checks of FINAL, failed (60_exceptions.md R343). -/
theorem final_checks_of_refused {s : State} {c : CmdError} (h : refusalOf .final s = some c) :
    s.phase = .unconf ∨ s.outbits = 0 ∨ stateBitsOf s.mode < s.outbits.toNat := by
  by_contra! haccept
  obtain ⟨hphase, hzero, hhigh⟩ := haccept
  have hlow : ¬s.outbits.toNat < 1 := fun hlt => hzero (BitVec.eq_of_toNat_eq (by simpa using hlt))
  have hbits : s.engine.stateBits = stateBitsOf s.mode := s.mode.engine_stateBits
  simp [refusalOf, hphase, hlow, hbits, hhigh.not_gt] at h

/-- The padding is one block or two (41_streaming.md R155). -/
theorem State.padBlocks_length (s : State) : s.padBlocks.length = 1 ∨ s.padBlocks.length = 2 := by
  rw [State.padBlocks, Engine.pad_length]
  split_ifs <;> simp

/-- Settles O49: a refused command runs no block. Of the accepted ones, ABSORB runs those its bytes complete,
`State.appendBytes_blocks`, FINAL its padding, COMPRESS the block buffer, and the others none. -/
theorem blocksCompressedPerCommand : Obligations.BlocksCompressedPerCommand := by
  intro i s t h
  have hsize : s.engine.blockBytes = blockBitsOf s.mode / 8 := by
    rw [← Mode.engine_blockBits, Engine.blockBits]
    exact (Nat.mul_div_cancel_left _ (by decide)).symm
  obtain ⟨c, hc, rfl⟩ | ⟨hc, heffect⟩ := exec_cases h
  · refine ⟨[], by simp [blocksCompressed, hc], nofun, ?_⟩
    cases i with
    | absorb n => exact ⟨rfl, rfl, Nat.zero_le _⟩
    | absorbbits n => exact ⟨rfl, rfl, rfl⟩
    | final => exact ⟨rfl, rfl, by rw [if_pos (final_checks_of_refused hc)]; exact ⟨rfl, rfl⟩⟩
    | compress =>
      obtain ⟨hphase, -⟩ : s.phase = .unconf ∧ CmdError.noMode = c := by simpa [refusalOf] using hc
      exact ⟨rfl, rfl, (if_pos hphase).symm⟩
    | expand => exact ⟨rfl, rfl⟩
    | init _ | initk _ | clrerr => cases hc
    | wadd _ | cadd _ | wsub _ | bsub _ | cmul _ | rotl _ | rotr _ => cases hc
    | shl _ | shr _ | bswap _ | and _ | or _ | xor _ | not _ => cases hc
  rw [show blocksCompressed i s = blocksOf i s by rw [blocksCompressed, hc]]
  cases heffect with
  | init m => exact ⟨[], rfl, nofun, rfl, rfl⟩
  | initk | clrerr | absorbbitsNone | absorbbits => exact ⟨[], rfl, nofun, rfl, rfl, rfl⟩
  | absorbNone => exact ⟨[], rfl, nofun, rfl, rfl, Nat.zero_le _⟩
  | @absorb n hn hphase hbit =>
    obtain ⟨blocks, hlen, hblocks, hh, hw⟩ := s.appendBytes_blocks (s.dinBytes n.toNat)
    rw [s.dinBytes_length] at hlen
    exact ⟨blocks, hlen, hsize ▸ hblocks, hh, hw, hlen ▸ s.blocksCompleted_le_one hn.2⟩
  | final hphase hlow hhigh =>
    refine ⟨s.padBlocks, rfl, fun P hP => hsize ▸ Engine.length_of_mem_pad hP, rfl, rfl, ?_⟩
    have hzero : s.outbits ≠ 0 := fun h => by simp [h] at hlow
    rw [if_neg (not_or.2 ⟨hphase, not_or.2 ⟨hzero, hhigh.not_gt⟩⟩)]
    exact ⟨s.padBlocks_length, rfl⟩
  | compress hphase =>
    exact ⟨[s.block], rfl, by simp [hsize], rfl, rfl, by rw [if_neg hphase]; rfl⟩
  | expand => exact ⟨[], rfl, nofun, rfl, rfl⟩
  | alu hi r rh cf _ _ =>
    cases i with
    | wadd _ | cadd _ | wsub _ | bsub _ | cmul _ | rotl _ | rotr _ => exact ⟨[], rfl, nofun, rfl, rfl, rfl⟩
    | shl _ | shr _ | bswap _ | and _ | or _ | xor _ | not _ => exact ⟨[], rfl, nofun, rfl, rfl, rfl⟩
    | init _ | initk _ | clrerr | absorb _ | absorbbits _ | final | compress | expand => cases hi

end Machine

end Sys2Proof
end

section
/-! No command reads what it only writes (60_exceptions.md R347; 10_state.md R28, R29, R38). -/

open Sys2Proof.Claims

namespace Sys2Proof.Machine

/-- The state with everything no command reads taken from another state: the error record, CUSTOM, CF, W, DG, R, RH
and the host's side. -/
def State.withUnreadOf (s o : State) : State :=
  { s with
    err := o.err, errcode := o.errcode, custom := o.custom, cf := o.cf
    w := o.w, dg := o.dg, r := o.r, rh := o.rh
    pending := o.pending, responses := o.responses }

/-- States with one essence differ in what no command reads. -/
theorem eq_withUnreadOf_of_essence_eq {s u : State} (h : essence s = essence u) : u = s.withUnreadOf u := by
  obtain ⟨⟨⟩, _, _⟩ := s
  obtain ⟨⟨⟩, _, _⟩ := u
  simp only [essence, State.mk.injEq, CoreState.mk.injEq] at h
  simp only [State.withUnreadOf, State.mk.injEq, CoreState.mk.injEq]
  tauto

/-- Written alike or kept, twice over. -/
theorem sameOrKept_trans {α : Type} {x0 y0 x1 y1 x2 y2 : α} (h1 : sameOrKept x0 y0 x1 y1)
    (h2 : sameOrKept x1 y1 x2 y2) : sameOrKept x0 y0 x2 y2 := by
  obtain hsame | ⟨rfl, rfl⟩ := h2
  · exact .inl hsame
  · exact h1

/-- A byte is absorbed without reading them; W is written by a full block, and kept before. -/
theorem State.appendByte_withUnreadOf (s o : State) (b : Byte) :
    ∃ w, (s.withUnreadOf o).appendByte b = (s.appendByte b).withUnreadOf { o with w := w }
      ∧ sameOrKept s.w o.w (s.appendByte b).w w := by
  by_cases hfull : (s.pushByte b).bufbits = 0
  · have hs : s.appendByte b = (s.pushByte b).runBlock (s.pushByte b).block := if_pos hfull
    refine ⟨(s.appendByte b).w, ?_, .inl rfl⟩
    rw [hs]
    exact if_pos hfull
  · have hs : s.appendByte b = s.pushByte b := if_neg hfull
    refine ⟨o.w, ?_, ?_⟩
    · rw [hs]
      exact if_neg hfull
    · rw [hs]
      exact .inr ⟨rfl, rfl⟩

/-- Bytes are absorbed without reading them. -/
theorem State.appendBytes_withUnreadOf (s o : State) (bs : List Byte) :
    ∃ w, (s.withUnreadOf o).appendBytes bs = (s.appendBytes bs).withUnreadOf { o with w := w }
      ∧ sameOrKept s.w o.w (s.appendBytes bs).w w := by
  induction bs generalizing s o with
  | nil => exact ⟨o.w, rfl, .inr ⟨rfl, rfl⟩⟩
  | cons b bs ih =>
    obtain ⟨w, hb, hw⟩ := s.appendByte_withUnreadOf o b
    obtain ⟨w', hbs, hw'⟩ := ih (s.appendByte b) { o with w := w }
    exact ⟨w', by rw [State.appendBytes_cons, hb, hbs, State.appendBytes_cons], sameOrKept_trans hw hw'⟩

/-- The state checks do not read them (60_exceptions.md R343, R347). -/
theorem refusalOf_withUnreadOf (i : Instr) (s o : State) : refusalOf i (s.withUnreadOf o) = refusalOf i s := by
  cases i <;> rfl

/-! ### Accepted commands that may be refused, one equation each -/

section
variable {s : State} {n : BitVec 4}

theorem exec_absorb_of_not_refused (h : refusalOf (.absorb n) s = none) :
    exec (.absorb n) s =
      .next (if n = 0 then s else (s.appendBytes (s.dinBytes n.toNat)).withPhase .accum) := by
  obtain ⟨t, ht, heffect⟩ := exists_effect_of_refusalOf_eq_none h
  rw [ht]
  cases heffect with
  | absorbNone => rfl
  | absorb hn => rw [if_neg fun h0 => by simp [h0] at hn]
  | alu hi => cases hi

theorem exec_absorbbits_of_not_refused (h : refusalOf (.absorbbits n) s = none) :
    exec (.absorbbits n) s = .next (if n = 0 then s else s.appendBits n.toNat) := by
  obtain ⟨t, ht, heffect⟩ := exists_effect_of_refusalOf_eq_none h
  rw [ht]
  cases heffect with
  | absorbbitsNone => rfl
  | absorbbits hn => rw [if_neg fun h0 => by simp [h0] at hn]
  | alu hi => cases hi

theorem exec_final_of_not_refused (h : refusalOf .final s = none) : exec .final s = .next s.finalized := by
  obtain ⟨t, ht, heffect⟩ := exists_effect_of_refusalOf_eq_none h
  cases heffect with
  | final => exact ht
  | alu hi => cases hi

theorem exec_compress_of_not_refused (h : refusalOf .compress s = none) :
    exec .compress s = .next (s.runBlock s.block) := by
  obtain ⟨t, ht, heffect⟩ := exists_effect_of_refusalOf_eq_none h
  cases heffect with
  | compress => exact ht
  | alu hi => cases hi

theorem exec_expand_of_not_refused (h : refusalOf .expand s = none) : exec .expand s = .next s.expanded := by
  obtain ⟨t, ht, heffect⟩ := exists_effect_of_refusalOf_eq_none h
  cases heffect with
  | expand => exact ht
  | alu hi => cases hi

end

/-! ### The same command in two states -/

/-- What two runs of one command agree on, in a state and in one that differs in what no command reads: all else,
and whether and how each of these was written. -/
def State.RunsAgree (s o t v : State) : Prop :=
  essence t = essence v
    ∧ sameOrKept s.custom o.custom t.custom v.custom ∧ sameOrKept s.cf o.cf t.cf v.cf
    ∧ sameOrKept s.w o.w t.w v.w ∧ sameOrKept s.dg o.dg t.dg v.dg
    ∧ sameOrKept s.r o.r t.r v.r ∧ sameOrKept s.rh o.rh t.rh v.rh
    ∧ sameOrKept s.err o.err t.err v.err
    ∧ (s.err = o.err → sameOrKept s.errcode o.errcode t.errcode v.errcode)

theorem sameOrKept_kept {α : Type} (x y : α) : sameOrKept x y x y := .inr ⟨rfl, rfl⟩

theorem sameOrKept_written {α : Type} (x0 y0 x : α) : sameOrKept x0 y0 x x := .inl rfl

section
variable (s o : State)

/-- Both runs keep all of what no command reads, and do the same to the rest. -/
theorem State.runsAgree_of_kept {b : State} (hb : b = b.withUnreadOf s) : s.RunsAgree o b (b.withUnreadOf o) := by
  rw [hb]
  exact ⟨rfl, sameOrKept_kept _ _, sameOrKept_kept _ _, sameOrKept_kept _ _, sameOrKept_kept _ _,
    sameOrKept_kept _ _, sameOrKept_kept _ _, sameOrKept_kept _ _, fun _ => sameOrKept_kept _ _⟩

/-- Both runs write the same W only. -/
theorem State.runsAgree_with_w (v : Vector Word64 80) :
    s.RunsAgree o { s with w := v } { s.withUnreadOf o with w := v } :=
  ⟨rfl, sameOrKept_kept _ _, sameOrKept_kept _ _, sameOrKept_written _ _ _, sameOrKept_kept _ _,
    sameOrKept_kept _ _, sameOrKept_kept _ _, sameOrKept_kept _ _, fun _ => sameOrKept_kept _ _⟩

/-- Both runs run the same block. -/
theorem State.runsAgree_runBlock (P : List Byte) :
    s.RunsAgree o (s.runBlock P) ((s.withUnreadOf o).runBlock P) :=
  ⟨rfl, sameOrKept_kept _ _, sameOrKept_kept _ _, sameOrKept_written _ _ _, sameOrKept_kept _ _,
    sameOrKept_kept _ _, sameOrKept_kept _ _, sameOrKept_kept _ _, fun _ => sameOrKept_kept _ _⟩

/-- Both runs are refused with the same code: ERR is written in both, and ERRCODE where ERR was clear. -/
theorem State.runsAgree_recordError (c : CmdError) :
    s.RunsAgree o (s.recordError c) ((s.withUnreadOf o).recordError c) := by
  refine ⟨rfl, sameOrKept_kept _ _, sameOrKept_kept _ _, sameOrKept_kept _ _, sameOrKept_kept _ _,
    sameOrKept_kept _ _, sameOrKept_kept _ _, sameOrKept_written _ _ _, fun herr => ?_⟩
  rw [State.recordError_errcode, State.recordError_errcode, show (s.withUnreadOf o).err = s.err from herr.symm]
  split_ifs
  · exact sameOrKept_kept _ _
  · exact sameOrKept_written _ _ _

/-- Both runs absorb the same bytes. -/
theorem State.runsAgree_appendBytes (bs : List Byte) :
    s.RunsAgree o ((s.appendBytes bs).withPhase .accum) (((s.withUnreadOf o).appendBytes bs).withPhase .accum) := by
  obtain ⟨w, hbs, hw⟩ := s.appendBytes_withUnreadOf o bs
  rw [hbs]
  exact ⟨rfl, .inr ⟨s.appendBytes_custom bs, rfl⟩, .inr ⟨s.appendBytes_cf bs, rfl⟩, hw,
    .inr ⟨s.appendBytes_dg bs, rfl⟩, .inr ⟨s.appendBytes_r bs, rfl⟩, .inr ⟨s.appendBytes_rh bs, rfl⟩,
    .inr ⟨s.appendBytes_err bs, rfl⟩, fun _ => .inr ⟨s.appendBytes_errcode bs, rfl⟩⟩

/-- Both runs deliver the digest: DG and the schedule of the last padding block are the same. -/
theorem State.runsAgree_finalized : s.RunsAgree o s.finalized (s.withUnreadOf o).finalized := by
  have hlast := List.getLast?_eq_some_getLast s.padBlocks_ne_nil
  have hw : s.lastSched s.padBlocks = (s.withUnreadOf o).lastSched s.padBlocks := by
    rw [State.lastSched_eq hlast, State.lastSched_eq hlast]
    rfl
  exact ⟨rfl, sameOrKept_kept _ _, sameOrKept_kept _ _, .inl hw, sameOrKept_written _ _ _, sameOrKept_kept _ _,
    sameOrKept_kept _ _, sameOrKept_kept _ _, fun _ => sameOrKept_kept _ _⟩

end

/-- An accepted command makes the same of both states. -/
theorem runsAgree_of_not_refused {s o t v : State} {i : Instr} (hc : refusalOf i s = none) (ht : exec i s = .next t)
    (hv : exec i (s.withUnreadOf o) = .next v) : s.RunsAgree o t v := by
  have hco := (refusalOf_withUnreadOf i s o).trans hc
  cases i with
  | absorb n =>
    rw [exec_absorb_of_not_refused hc] at ht
    rw [exec_absorb_of_not_refused hco] at hv
    cases ht; cases hv
    split_ifs
    · exact s.runsAgree_of_kept o rfl
    · exact s.runsAgree_appendBytes o _
  | absorbbits n =>
    rw [exec_absorbbits_of_not_refused hc] at ht
    rw [exec_absorbbits_of_not_refused hco] at hv
    cases ht; cases hv
    split_ifs
    · exact s.runsAgree_of_kept o rfl
    · exact s.runsAgree_of_kept o (b := s.appendBits n.toNat) rfl
  | final =>
    rw [exec_final_of_not_refused hc] at ht
    rw [exec_final_of_not_refused hco] at hv
    cases ht; cases hv
    exact s.runsAgree_finalized o
  | compress =>
    rw [exec_compress_of_not_refused hc] at ht
    rw [exec_compress_of_not_refused hco] at hv
    cases ht; cases hv
    exact s.runsAgree_runBlock o s.block
  | expand =>
    rw [exec_expand_of_not_refused hc] at ht
    rw [exec_expand_of_not_refused hco] at hv
    cases ht; cases hv
    exact s.runsAgree_with_w o (s.engine.schedArray s.block)
  | init _ | initk _ =>
    cases ht; cases hv
    exact ⟨rfl, sameOrKept_written _ _ _, sameOrKept_kept _ _, sameOrKept_kept _ _, sameOrKept_kept _ _,
      sameOrKept_kept _ _, sameOrKept_kept _ _, sameOrKept_kept _ _, fun _ => sameOrKept_kept _ _⟩
  | clrerr =>
    cases ht; cases hv
    exact ⟨rfl, sameOrKept_kept _ _, sameOrKept_kept _ _, sameOrKept_kept _ _, sameOrKept_kept _ _,
      sameOrKept_kept _ _, sameOrKept_kept _ _, sameOrKept_written _ _ _, fun _ => sameOrKept_written _ _ _⟩
  | wadd _ | cadd _ | wsub _ | bsub _ =>
    cases ht; cases hv
    exact ⟨rfl, sameOrKept_kept _ _, sameOrKept_written _ _ _, sameOrKept_kept _ _, sameOrKept_kept _ _,
      sameOrKept_written _ _ _, sameOrKept_kept _ _, sameOrKept_kept _ _, fun _ => sameOrKept_kept _ _⟩
  | cmul _ =>
    cases ht; cases hv
    exact ⟨rfl, sameOrKept_kept _ _, sameOrKept_kept _ _, sameOrKept_kept _ _, sameOrKept_kept _ _,
      sameOrKept_written _ _ _, sameOrKept_written _ _ _, sameOrKept_kept _ _, fun _ => sameOrKept_kept _ _⟩
  | rotl _ | rotr _ | shl _ | shr _ | bswap _ | and _ | or _ | xor _ | not _ =>
    cases ht; cases hv
    exact ⟨rfl, sameOrKept_kept _ _, sameOrKept_kept _ _, sameOrKept_kept _ _, sameOrKept_kept _ _,
      sameOrKept_written _ _ _, sameOrKept_kept _ _, sameOrKept_kept _ _, fun _ => sameOrKept_kept _ _⟩

/-- Settles O23: the other state is the first with what no command reads replaced; the same check refuses in both,
or the command makes the same of both. -/
theorem commandsReadNoOutputAndNoRecord : Obligations.CommandsReadNoOutputAndNoRecord := by
  intro i s u t hess ht
  obtain ⟨o, rfl⟩ : ∃ o, u = s.withUnreadOf o := ⟨u, eq_withUnreadOf_of_essence_eq hess⟩
  obtain ⟨c, hc, rfl⟩ | ⟨hc, -⟩ := exec_cases ht
  · have hco := (refusalOf_withUnreadOf i s o).trans hc
    exact ⟨_, exec_of_refusalOf_eq_some hco, s.runsAgree_recordError o c⟩
  · obtain ⟨v, hv⟩ := exec_total i (s.withUnreadOf o)
    exact ⟨v, hv, runsAgree_of_not_refused hc ht hv⟩

end Sys2Proof.Machine
end

section
/-! Laws of the ALU commands, and the conversions to and from the host's byte order (45_word_alu.md R305, R306). -/

open Sys2Proof.Claims

namespace Sys2Proof

/-- Reversing the bytes twice gives the number back (45_word_alu.md R305). -/
theorem bswapNat_bswapNat {w x : Nat} (h8 : 8 ∣ w) (hx : x < 2 ^ w) : bswapNat w (bswapNat w x) = x := by
  refine Nat.eq_of_testBit_eq fun j => ?_
  obtain hj | hj := Nat.lt_or_ge j w
  · obtain ⟨bytes, rfl⟩ := h8
    rw [Nat.mul_comm] at hj
    have hbyte : j / 8 < bytes := Nat.div_lt_of_lt_mul (by omega)
    rw [testBit_bswapNat (by omega), testBit_bswapNat (by omega)]
    congr 1
    omega
  · rw [testBit_eq_false_of_le (bswapNat_lt h8 _) hj, testBit_eq_false_of_le hx hj]

/-- A right rotate undoes the left rotate by the same amount (45_word_alu.md R305). -/
theorem rotrNat_rotlNat {w x n : Nat} (hx : x < 2 ^ w) (hn : n < w) : rotrNat w (rotlNat w x n) n = x := by
  refine Nat.eq_of_testBit_eq fun j => ?_
  rw [testBit_rotrNat (rotlNat_lt hx) hn, testBit_rotlNat hx hn]
  obtain hj | hj := Nat.lt_or_ge j w
  · have hplace : ((j + n) % w + w - n) % w = j := by
      obtain hlow | hwrap := Nat.lt_or_ge (j + n) w
      · rw [Nat.mod_eq_of_lt hlow, show j + n + w - n = j + w by omega, Nat.add_mod_right, Nat.mod_eq_of_lt hj]
      · rw [Nat.mod_eq_sub_mod hwrap, Nat.mod_eq_of_lt (show j + n - w < w by omega),
          show j + n - w + w - n = j by omega, Nat.mod_eq_of_lt hj]
    simp [hj, hplace, Nat.mod_lt _ (show 0 < w by omega)]
  · simp [show ¬j < w by omega, testBit_eq_false_of_le hx hj]

/-- The complement of a w-bit number is its exclusive or with w one bits (45_word_alu.md R305). -/
theorem xor_two_pow_sub_one {w x : Nat} (hx : x < 2 ^ w) : x ^^^ (2 ^ w - 1) = 2 ^ w - 1 - x := by
  refine Nat.eq_of_testBit_eq fun j => ?_
  rw [Nat.testBit_xor, Nat.testBit_two_pow_sub_one, Nat.sub_sub, Nat.add_comm 1, Nat.testBit_two_pow_sub_succ hx]
  obtain hj | hj := Nat.lt_or_ge j w
  · simp [hj]
  · simp [show ¬j < w by omega, testBit_eq_false_of_le hx hj]

namespace Machine

/-- A w-bit number in A is the operand a (45_word_alu.md R290). -/
theorem State.opA_eq {s : State} {w : Width} {v : Nat} (ha : s.a = BitVec.ofNat 128 v) (hv : v < 2 ^ w.bits) :
    s.opA w = v := by
  rw [State.opA, ha, Width.toNat_ofNat hv, Nat.mod_eq_of_lt hv]

/-- A w-bit number in B is the operand b (45_word_alu.md R290). -/
theorem State.opB_eq {s : State} {w : Width} {v : Nat} (hb : s.b = BitVec.ofNat 128 v) (hv : v < 2 ^ w.bits) :
    s.opB w = v := by
  rw [State.opB, hb, Width.toNat_ofNat hv, Nat.mod_eq_of_lt hv]

/-- Taking away what was added gives the number back: the carry and the borrow cancel (45_word_alu.md R305). -/
theorem wsub_undoes_wadd {w : Width} {s t u : State} (ht : exec (.wadd w) s = .next t)
    (hu : exec (.wsub w) { t with a := t.r } = .next u) : u.r.toNat = s.opA w := by
  obtain ⟨-, -, hadd⟩ := addsLeaveTheCarryOut
  obtain ⟨-, -, hsub⟩ := subtractsLeaveTheBorrow
  obtain ⟨t', ht', -, htr, hsum⟩ := (hadd w s).1
  obtain ⟨u', hu', -, hur, -, hdiff⟩ := (hsub w { t with a := t.r }).1
  obtain rfl : t = t' := by simpa [ht] using ht'
  obtain rfl : u = u' := by simpa [hu] using hu'
  have hb : t.b = s.b := by cases ht; rfl
  have ha := s.opA_lt w
  simp only [hb, Nat.mod_eq_of_lt htr] at hdiff
  change t.cf.toNat * 2 ^ w.bits + t.r.toNat = s.opA w + s.opB w at hsum
  change u.r.toNat + s.opB w = t.r.toNat + u.cf.toNat * 2 ^ w.bits at hdiff
  generalize t.cf = carry at hsum
  generalize u.cf = borrow at hdiff
  cases carry <;> cases borrow <;> simp only [Bool.toNat_true, Bool.toNat_false] at hsum hdiff <;> omega

/-- Reversing the bytes of the result gives the operand back (45_word_alu.md R305). -/
theorem bswap_undoes_bswap {w : Width} {s t u : State} (ht : exec (.bswap w) s = .next t)
    (hu : exec (.bswap w) { t with a := t.r } = .next u) : u.r.toNat = s.opA w := by
  have htr : t.r = BitVec.ofNat 128 (bswapNat w.bits (s.opA w)) := by cases ht; rfl
  have hopA : { t with a := t.r }.opA w = bswapNat w.bits (s.opA w) :=
    State.opA_eq htr (bswapNat_lt w.eight_dvd_bits _)
  have hur : u.r = BitVec.ofNat 128 (bswapNat w.bits ({ t with a := t.r }.opA w)) := by cases hu; rfl
  rw [hur, hopA, bswapNat_bswapNat w.eight_dvd_bits (s.opA_lt w), Width.toNat_ofNat (s.opA_lt w)]

/-- Rotating the result right gives the operand back (45_word_alu.md R305). -/
theorem rotr_undoes_rotl {w : Width} {s t u : State} (ht : exec (.rotl w) s = .next t)
    (hu : exec (.rotr w) { t with a := t.r } = .next u) : u.r.toNat = s.opA w := by
  have htr : t.r = BitVec.ofNat 128 (rotlNat w.bits (s.opA w) (s.amount w)) := by cases ht; rfl
  have hopA : { t with a := t.r }.opA w = rotlNat w.bits (s.opA w) (s.amount w) :=
    State.opA_eq htr (rotlNat_lt (s.opA_lt w))
  have hur : u.r = BitVec.ofNat 128 (rotrNat w.bits ({ t with a := t.r }.opA w) (s.amount w)) := by
    cases ht; cases hu; rfl
  rw [hur, hopA, rotrNat_rotlNat (s.opA_lt w) (s.amount_lt w), Width.toNat_ofNat (s.opA_lt w)]

/-- NOT is XOR with w one bits (45_word_alu.md R305). -/
theorem xor_ones_is_not {w : Width} {s t u : State} (ht : exec (.not w) s = .next t)
    (hu : exec (.xor w) { s with b := BitVec.ofNat 128 (2 ^ w.bits - 1) } = .next u) : u.r = t.r := by
  have hones : { s with b := BitVec.ofNat 128 (2 ^ w.bits - 1) }.opB w = 2 ^ w.bits - 1 :=
    State.opB_eq rfl (Nat.sub_lt (Nat.two_pow_pos _) one_pos)
  have htr : t.r = BitVec.ofNat 128 (2 ^ w.bits - 1 - s.opA w) := by cases ht; rfl
  have hur : u.r = BitVec.ofNat 128 (s.opA w ^^^ { s with b := BitVec.ofNat 128 (2 ^ w.bits - 1) }.opB w) := by
    cases hu; rfl
  rw [hur, htr, hones, xor_two_pow_sub_one (s.opA_lt w)]

/-- Settles O55: one lemma for each law of two commands; with C[0] = 0 nothing is carried in or borrowed. -/
theorem aluLawsHold : Obligations.AluLawsHold := by
  refine fun w s => ⟨fun _ _ => wsub_undoes_wadd, fun _ _ => bswap_undoes_bswap, fun _ _ => rotr_undoes_rotl,
    fun hc => ⟨?_, ?_⟩, fun _ _ => xor_ones_is_not⟩
  · simp [exec, execCadd, execWadd, State.carryIn, hc]
  · simp [exec, execBsub, execWsub, State.carryIn, hc]

/-- A statement followed by none. -/
theorem andThen_runEvents_nil (r : Result) : andThen r (runEvents []) = r := by
  cases r <;> rfl

/-- Four words of zeros are the whole of a 128-bit register (20_memory.md R64). -/
theorem withWord_zeros (x : Word128) : withWord (withWord (withWord (withWord x 0 0) 1 0) 2 0) 3 0 = 0 := by
  refine BitVec.eq_of_getLsbD_eq fun j hj => ?_
  simp only [withWord_getLsbD _ _ _ j hj]
  split_ifs
  case neg => omega
  all_goals simp

/-- A write statement at a word of B (30_encoding.md R102). -/
theorem State.perform_wr_b (s : State) (k : Fin 4) (v : Word32) :
    s.perform (wr (.b k) v) = .next { s with b := withWord s.b k.val v } :=
  State.perform_wr (by simp) s v

/-- Settles O56: TOBE is BSWAP's own statement; TOLE clears B word by word, and a number or 0 is the number. -/
theorem conversionsFollowTheNativeOrder : Obligations.ConversionsFollowTheNativeOrder := by
  intro w s
  refine ⟨?_, ?_⟩
  · rw [toBe, runEvents_cons, State.perform_cmd rfl, andThen_runEvents_nil]
  · have hor : exec (.or w) { s with b := 0 } = .next ({ s with b := 0 }.withR (s.opA w)) := by
      have hzero : { s with b := 0 }.opB w = 0 := State.opB_eq rfl (Nat.two_pow_pos _)
      change Host.Outcome.next (State.withR _ (s.opA w ||| { s with b := 0 }.opB w)) = _
      rw [hzero, Nat.or_zero]
    refine ⟨{ s with b := 0 }.withR (s.opA w), ?_, Width.toNat_ofNat (s.opA_lt w), rfl⟩
    simp only [toLe, runEvents_cons, State.perform_wr_b, andThen_next]
    rw [andThen_runEvents_nil, State.perform_cmd (i := .or w) rfl, ← hor]
    exact congrArg (fun b => exec (.or w) { s with b := b }) (withWord_zeros s.b)

end Machine

end Sys2Proof
end

section
/-! What the host reads of the digest, and RUMINATE (41_streaming.md R170, R173). -/

open Sys2Proof.Claims

namespace Sys2Proof.Machine

/-- Lane `k` of a port word of a byte array (20_memory.md R65, R66). -/
theorem laneByte_lanes {n : Nat} (x : Vector Byte (4 * n)) (j : Fin n) {k : Nat} (hk : k < 4) :
    laneByte (lanes x j) k = x[4 * j.val + k]'(by omega) := by
  refine BitVec.eq_of_getLsbD_eq fun i hi => ?_
  rw [laneByte, BitVec.getLsbD_extractLsb', decide_eq_true hi, Bool.true_and]
  simp only [lanes, BitVec.getLsbD_append]
  obtain rfl | rfl | rfl | rfl : k = 0 ∨ k = 1 ∨ k = 2 ∨ k = 3 := by omega
  all_goals
    simp (disch := omega) only [if_pos, if_neg]
    congr 1
    omega

/-- A read at a digest offset below DG's end is DG's port word there (20_memory.md R66). -/
theorem State.busRead_digestOffset (s : State) {j : Nat} (hj : j < 16) :
    s.busRead (digestOffset j) = lanes (n := 16) s.dg ⟨j, hj⟩ := by
  have hoff : digestOffset j = (PortReg.dg ⟨j, hj⟩).offset := by
    simp only [digestOffset, PortReg.offset, PortReg.byteOffset]
    congr 1
    omega
  rw [hoff, State.busRead_offset]
  rfl

/-- The bytes of DG's first `m` port words, lane by lane, are DG's first `4m` bytes (20_memory.md R66). -/
theorem State.digestWords_bytes (s : State) {m : Nat} (hm : m ≤ 16) :
    ((List.range m).map fun j => s.busRead (digestOffset j)).flatMap (fun v => (List.range 4).map (laneByte v))
      = s.dg.toList.take (4 * m) := by
  have hlen : (((List.range m).map fun j => s.busRead (digestOffset j)).flatMap
      (fun v => (List.range 4).map (laneByte v))).length = 4 * m := by
    simp [List.length_flatMap, Function.comp_def, mul_comm]
  refine List.ext_getElem (by simp [hlen]; omega) fun p hp _ => ?_
  rw [hlen] at hp
  have hdiv : p / 4 < m := by omega
  have hbyte := flatMap_getD_of_length (fun v => (List.range 4).map (laneByte v)) 4 (fun _ => by simp)
    ((List.range m).map fun j => s.busRead (digestOffset j)) (p / 4) (p % 4) (by simpa using hdiv)
    (Nat.mod_lt _ (by decide))
  rw [Nat.div_add_mod] at hbyte
  rw [List.getElem_eq_getD 0, hbyte]
  have hlane := laneByte_lanes (n := 16) s.dg ⟨p / 4, by omega⟩ (Nat.mod_lt p (show 0 < 4 by decide))
  simp only [Nat.div_add_mod] at hlane
  simp [s.busRead_digestOffset (show p / 4 < 16 by omega), Nat.mod_lt, hlane]

/-- The bytes read are DG's, then zeros (41_streaming.md R170). -/
theorem State.readDigest_eq (s : State) (n : Nat) :
    s.readDigest n = s.dg.toList.take n ++ List.replicate (n - 64) 0 := by
  have hwords : (min n 64 + 3) / 4 ≤ 16 := by omega
  rw [State.readDigest, bytesOfWords, s.digestWords_bytes hwords, List.take_take, Nat.min_eq_left (by omega),
    List.take_eq_take_min (i := n), Vector.length_toList]

/-- Settles O57: the bytes read are DG's first ones, and zeros past its end. -/
theorem digestReadsStayInTheDigest : Obligations.DigestReadsStayInTheDigest := by
  intro s n
  have htake : (s.dg.toList.take n).length = min n 64 := by simp
  rw [State.readDigest_eq]
  refine ⟨by simp; omega, fun j hj => ?_⟩
  obtain hin | hpast := Nat.lt_or_ge j 64
  · rw [List.getD_append _ _ _ _ (by omega), getD_take_of_lt _ hj]
  · rw [List.getD_append_right _ _ _ _ (by omega), List.getD_eq_getElem?_getD, List.getElem?_getD_replicate_default_eq,
      List.getD_eq_default _ _ (by simpa using hpast)]

/-- A next round is a HASH of the digest the rounds before left (41_streaming.md R173). -/
theorem rehash_succ (start : List PortEvent) (n : Nat) (s : State) :
    rehash start (n + 1) s =
      andThen (rehash start n s) fun t => runEvents (message start t.producedDigest) t := by
  induction n generalizing s with
  | zero => exact andThen_runEvents_nil _
  | succ n ih =>
    rw [rehash, rehash, andThen_assoc]
    congr 1
    exact funext fun t => ih t

/-- With a mode's default output length, RUMINATE re-hashes the first OUTBITS bits' bytes of DG
(41_streaming.md R173). -/
theorem State.producedDigest_eq {s : State} {m : Mode} (hout : s.outbits = m.defaultOutbits) :
    s.producedDigest = s.dg.toList.take ((s.outbits.toNat + 7) / 8) := by
  have hlegal : s.outbits.toNat ≤ 512 := by
    rw [hout]
    cases m <;> decide
  have hread : (s.busRead PortReg.outbits.offset).toNat = s.outbits.toNat := by
    rw [State.busRead_offset]
    exact BitVec.toNat_setWidth_of_le (by decide)
  rw [State.producedDigest, hread, State.readDigest_eq, show (s.outbits.toNat + 7) / 8 - 64 = 0 by omega]
  exact List.append_nil _

/-- HASH completes and leaves the mode's default output length. -/
theorem exists_hash (m : Mode) (M : List Byte) (s : State) :
    ∃ t, runEvents (hashStatements m M) s = .next t ∧ t.outbits = m.defaultOutbits := by
  obtain ⟨d, h⟩ := runEvents_hashStatements m M s
  exact ⟨_, h, (s.started m).fed_outbits M d⟩

/-- RUMINATE without a further round is HASH (41_streaming.md R173). -/
theorem ruminate_zero (m : Mode) (M : List Byte) (s : State) :
    ruminate m 0 M s = runEvents (hashStatements m M) s :=
  andThen_runEvents_nil _

/-- One round more is HASH of the digest the rounds before left (41_streaming.md R173). -/
theorem ruminate_succ (m : Mode) (n : Nat) (M : List Byte) (s : State) :
    ruminate m (n + 1) M s =
      andThen (ruminate m n M s) fun t => runEvents (hashStatements m t.producedDigest) t := by
  rw [ruminate, ruminate, ruminateFrom, ruminateFrom, andThen_assoc]
  congr 1
  exact funext fun t => rehash_succ _ n t

/-- RUMINATE completes and leaves the mode's default output length. -/
theorem exists_ruminate (m : Mode) (n : Nat) (M : List Byte) (s : State) :
    ∃ t, ruminate m n M s = .next t ∧ t.outbits = m.defaultOutbits := by
  induction n with
  | zero =>
    rw [ruminate_zero]
    exact exists_hash m M s
  | succ n ih =>
    obtain ⟨t, ht, -⟩ := ih
    rw [ruminate_succ, ht, andThen_next]
    exact exists_hash m _ t

/-- Settles O58: a round more is one HASH more, `ruminate_succ`, of the digest bytes OUTBITS counts. -/
theorem ruminateRehashesTheDigest : Obligations.RuminateRehashesTheDigest := by
  intro m n M s
  refine ⟨ruminate_zero m M s, ?_⟩
  obtain ⟨t, ht, hout⟩ := exists_ruminate m n M s
  obtain ⟨u, hu, -⟩ := exists_hash m t.producedDigest t
  refine ⟨t, u, ht, ?_, ?_⟩
  · rw [ruminate_succ, ht, andThen_next, hu]
  · rw [← State.producedDigest_eq hout, hu]

end Sys2Proof.Machine
end

section
/-! Independent cores, and the values worked out in the specification (60_exceptions.md R353; 43_md_engines.md R224;
44_sha_engines.md R256; 95_test_vectors.md section 1.1). -/

open Sys2Proof.Claims

namespace Sys2Proof

namespace Machine

/-- Settles O60: an event replaces the state of the core it is performed by, and that is all. -/
theorem instancesAreIndependent : Obligations.InstancesAreIndependent := by
  intro p q k e h
  obtain ⟨s, t, hk, ht, rfl⟩ := Platform.performAt_cases h
  have hlt : k < p.cores.length := (List.getElem?_eq_some_iff.1 hk).1
  exact ⟨rfl, fun j hj => List.getElem?_set_ne hj.symm, s, t, hk, ht, List.getElem?_set_self hlt⟩

end Machine

/-! ### The padded block of "abc", compressed from each engine's IV (43_md_engines.md R224; 44_sha_engines.md R256) -/

theorem compressWords_md4_abc :
    Engine.md4.compressWords Mode.md4.ivWords
        ([0x61, 0x62, 0x63, 0x80] ++ List.replicate 52 0 ++ [0x18] ++ List.replicate 7 0)
      = [0x7a0148a4, 0x52d821af, 0xe80ac15f, 0x9d72a67a] := by decide +kernel

theorem compressWords_md5_abc :
    Engine.md5.compressWords Mode.md5.ivWords
        ([0x61, 0x62, 0x63, 0x80] ++ List.replicate 52 0 ++ [0x18] ++ List.replicate 7 0)
      = [0x98500190, 0xb04fd23c, 0x7d3f96d6, 0x727fe128] := by decide +kernel

theorem compressWords_sha0_abc :
    Engine.sha0.compressWords Mode.sha0.ivWords ([0x61, 0x62, 0x63, 0x80] ++ List.replicate 59 0 ++ [0x18])
      = [0x0164b8a9, 0x14cd2a5e, 0x74c4f7ff, 0x082c4d97, 0xf1edf880] := by decide +kernel

theorem compressWords_sha1_abc :
    Engine.sha1.compressWords Mode.sha1.ivWords ([0x61, 0x62, 0x63, 0x80] ++ List.replicate 59 0 ++ [0x18])
      = [0xa9993e36, 0x4706816a, 0xba3e2571, 0x7850c26c, 0x9cd0d89d] := by decide +kernel

theorem compressWords_sha256_abc :
    Engine.sha256.compressWords Mode.sha256.ivWords ([0x61, 0x62, 0x63, 0x80] ++ List.replicate 59 0 ++ [0x18])
      = [0xba7816bf, 0x8f01cfea, 0x414140de, 0x5dae2223, 0xb00361a3, 0x96177a9c, 0xb410ff61, 0xf20015ad] := by
  decide +kernel

theorem compressWords_sha512_abc :
    Engine.sha512.compressWords Mode.sha512.ivWords ([0x61, 0x62, 0x63, 0x80] ++ List.replicate 123 0 ++ [0x18])
      = [0xddaf35a193617aba, 0xcc417349ae204131, 0x12e6fa4e89a97ea2, 0x0a9eeee64b55d39a,
        0x2192992a274fc1a8, 0x36ba3c23a3feebbd, 0x454d4423643ce80e, 0x2a9ac94fa54ca49f] := by decide +kernel

/-- Settles O48: the first steps, then the compressions, each evaluated. -/
theorem enginesGiveTheWorkedValues : Obligations.EnginesGiveTheWorkedValues :=
  ⟨by decide, by decide, by decide, by decide, by decide, by decide, by decide, compressWords_md4_abc,
    compressWords_md5_abc, compressWords_sha0_abc, compressWords_sha1_abc, compressWords_sha256_abc,
    compressWords_sha512_abc⟩

namespace Machine

/-! ### Digests and generated IVs through the port (95_test_vectors.md section 1.1; 41_streaming.md R172) -/

/-- The first digest bytes HASH leaves are those of the whole-message function (41_streaming.md R168). -/
theorem digestAfter_hashStatements (n : Nat) (m : Mode) (M : List Byte) (s : State) :
    digestAfter n (runEvents (hashStatements m M) s) =
      beVal ((truncDigest (m.engine.hash m.ivWords M (8 * M.length)) (outbitsOf m)).toList.take n) := by
  obtain ⟨t, ht, hdg, -⟩ := hashIsTheWholeMessageFunction m M s
  rw [ht, digestAfter, hdg]

theorem ivGen_224 : digestIvAfter (ivGen 224 State.reset) = iv512_224 := by decide +kernel

theorem ivGen_256 : digestIvAfter (ivGen 256 State.reset) = iv512_256 := by decide +kernel

/-- Settles O59: the digests are values of the whole-message function, `digestAfter_hashStatements`, and these and
the generated IVs are evaluated. -/
theorem sourceDigestsAndIvsReproduce : Obligations.SourceDigestsAndIvsReproduce := by
  unfold Obligations.SourceDigestsAndIvsReproduce
  simp only [digestAfter_hashStatements]
  refine ⟨?_, ?_, ?_, ?_, ?_, ?_, ?_, ivGen_224, ivGen_256⟩
  all_goals decide +kernel

end Machine

end Sys2Proof
end
